-- ==== Sys2Proof/Word.lean ====
section
/-! DEFINITION. The word types of the block (spec/00_scope.md R7): unsigned numbers of fixed width.
A register that the spec numbers bit by bit, or that software moves whole, is a bit vector. -/

namespace Sys2Proof

/-- One byte of the model's input stream. -/
abbrev Byte := BitVec 8

/-- `u8` of R7: the value of CONTROL and of an 8-bit transaction. -/
abbrev U8 := BitVec 8

/-- `u16` of R7: the value of PERIOD, DUTY, CLOCK and of a 16-bit transaction. -/
abbrev U16 := BitVec 16

/-- The bits of an `f64` operand of `configure` (R57: IEEE 754 binary64). -/
abbrev F64 := BitVec 64

/-- An address of the platform. R35 asks for a platform address width and gives none:
64 bits is the model's DESIGN CHOICE (notes/assumptions/5.md). -/
abbrev Address := BitVec 64

end Sys2Proof
end

