-- ==== Sys2Proof/Config.lean ====
section
/-! DEFINITION. The parameters of spec/00_scope.md R6: what is fixed for one machine and never changes
during a run. `State` carries one `Config` as plain data, so that a statement over every state is a
statement over every value of the parameters. `BASE` and `TOL`, which `new` sets, are fields of `State`. -/

namespace Sys2Proof

/-- The parameters and premises of R6 that hold of the machine as a whole. -/
structure Config where
  /-- `RESET_SELF_CLEAR`: CONTROL bit 7 may clear itself in hardware (R17, R118). -/
  resetSelfClear : Bool
  /-- `EXCLUSIVE_MUTATORS`: no write of another software context falls inside an operation (R46). -/
  exclusiveMutators : Bool
  /-- `MAPPED`: the window at `BASE` is the device and admitted transactions do not fault (R51). -/
  mapped : Bool
  /-- `RESET_PULSE_MIN_DELAY`: the caller's minimum delay between setting and clearing CONTROL bit 7. The
  model has no time, so no rule reads it (R6, R106, U15; notes/assumptions/3.md for its type and value). -/
  resetPulseMinDelay : Rat
  deriving DecidableEq, Repr

namespace Config

/-- The values `State.reset` carries: the two premises as R6 assumes them, and
`RESET_SELF_CLEAR` false as spec/95_test_vectors.md takes it, and no delay (DESIGN CHOICE, notes/assumptions/3.md). -/
def chosen : Config :=
  { resetSelfClear := false, exclusiveMutators := true, mapped := true, resetPulseMinDelay := 0 }

end Config

/-- `RESET_PERIOD`, `RESET_DUTY`, `RESET_CLOCK`, `RESET_CONTROL` of R6. -/
structure ResetValues where
  period  : U16
  duty    : U16
  clock   : U16
  control : U8
  deriving DecidableEq, Repr

/-- The all-zero values the worked programs of spec/95_test_vectors.md section 3 start from
(DESIGN CHOICE, notes/assumptions/1.md: the spec leaves every one of them open). -/
def ResetValues.chosen : ResetValues := { period := 0, duty := 0, clock := 0, control := 0 }

/-- The default tolerance 1/100 of R6 and R101, as a normal form that evaluates by itself. -/
def defaultTol : Rat := mkRat 1 100

end Sys2Proof
end

