-- ==== Sys2Proof/Syntax.lean ====
section
/-! DEFINITION. The operations of the block: one constructor per row of spec/opcode_table.json, in the
table's order, with the operands of spec/30_encoding.md R53 to R57. -/

namespace Sys2Proof

/-- `bit_index` of R57 and R81: the seven named flags of CONTROL. Bit 6 is reserved and is no value. -/
inductive BitIndex where
  | clockSelect      -- bit 0
  | pwmEnable        -- bit 1
  | pwmStart         -- bit 2
  | continuousOnce   -- bit 3
  | outputEnable     -- bit 4
  | interrupt        -- bit 5
  | resetCounter     -- bit 7
  deriving DecidableEq, Repr

/-- The four formats of R52. -/
inductive Format where
  | bus
  | rv
  | ctl
  | event
  deriving DecidableEq, Repr

/-- The 29 operations. -/
inductive Instr where
  -- format BUS (R53)
  | read16Period
  | write16Period (v : U16)
  | read16Duty
  | write16Duty (v : U16)
  | read8Control
  | write8Control (v : U8)
  | read16Clock
  | write16Clock (v : U16)
  -- format RV (R54)
  | readPeriod
  | writePeriod (v : U16)
  | readDuty
  | writeDuty (v : U16)
  | readClock
  | writeClock (v : U16)
  | readControl
  | writeControl (v : U8)
  | setBit (i : BitIndex)
  | clearBit (i : BitIndex)
  | testBit (i : BitIndex)
  -- format CTL (R55)
  | configure (frequencyHz dutyRatio systemClockHz : F64)
  | start (continuous : Bool)
  | stop
  | resetCounter
  | selectClockSource (external : Bool)
  | interruptOccurred
  | acknowledgeInterrupt
  | new (base : Address) (tol : Rat)
  -- format EVENT (R56)
  | hwCycleComplete
  | hwResetAutoClear
  deriving DecidableEq, Repr

/-- The format of a row, as the table gives it. -/
def Instr.format : Instr → Format
  | .read16Period | .write16Period _ | .read16Duty | .write16Duty _
  | .read8Control | .write8Control _ | .read16Clock | .write16Clock _ => .bus
  | .readPeriod | .writePeriod _ | .readDuty | .writeDuty _ | .readClock | .writeClock _
  | .readControl | .writeControl _ | .setBit _ | .clearBit _ | .testBit _ => .rv
  | .configure _ _ _ | .start _ | .stop | .resetCounter | .selectClockSource _
  | .interruptOccurred | .acknowledgeInterrupt | .new _ _ => .ctl
  | .hwCycleComplete | .hwResetAutoClear => .event

end Sys2Proof
end

