-- ==== Sys2Proof/WellFormed.lean ====
section
/-! DEFINITION. Which operand values an operation admits. The types carry every check of
spec/30_encoding.md R57 but those on the operands of `new`. -/

namespace Sys2Proof

/-- R38 and R35: `BASE` is a multiple of 4, and `BASE + 0x0F` does not overflow the platform's
address width (64 bits, notes/assumptions/5.md). -/
def baseAdmitted (base : Address) : Bool :=
  base.toNat % 4 == 0 && decide (base.toNat + 0x0F < 2 ^ 64)

/-- R101: `tol` is a rational at least 0. -/
def tolAdmitted (tol : Rat) : Bool := decide (0 ≤ tol)

/-- Every operand is one the spec admits. -/
def Instr.wellFormed : Instr → Bool
  | .read16Period => true
  | .write16Period _ => true
  | .read16Duty => true
  | .write16Duty _ => true
  | .read8Control => true
  | .write8Control _ => true
  | .read16Clock => true
  | .write16Clock _ => true
  | .readPeriod => true
  | .writePeriod _ => true
  | .readDuty => true
  | .writeDuty _ => true
  | .readClock => true
  | .writeClock _ => true
  | .readControl => true
  | .writeControl _ => true
  | .setBit _ => true
  | .clearBit _ => true
  | .testBit _ => true
  | .configure _ _ _ => true
  | .start _ => true
  | .stop => true
  | .resetCounter => true
  | .selectClockSource _ => true
  | .interruptOccurred => true
  | .acknowledgeInterrupt => true
  | .new base tol => baseAdmitted base && tolAdmitted tol
  | .hwCycleComplete => true
  | .hwResetAutoClear => true

end Sys2Proof
end

