-- ==== Sys2Proof/Decode.lean ====
section
/-! DEFINITION. Decoding and encoding. An operation is presented as its 8-bit selector
(spec/30_encoding.md R52 to R56) followed by the bytes of its operands. The spec lets the operands
travel beside the selector as typed values and gives them no bytes; their layout here is the model's
DESIGN CHOICE (notes/assumptions/6.md): little-endian, low byte first, as R39 has it for a byte layout. -/

namespace Sys2Proof

/-- Why a byte stream presents no operation. -/
inductive DecodeError where
  /-- The stream ends inside an operand, or before a selector. -/
  | incomplete
  /-- A selector of format BUS that is none of the eight admitted transactions (R60 b). -/
  | notAdmitted (write size16 : Bool) (offset : Nat)
  /-- A selector of another format that R54 to R56 do not list (R60 d). -/
  | invalidSelector (selector : Byte)
  /-- A `bit_index` that is 6 or above 7 (R60 c, R81). -/
  | badBitIndex (n : Nat)
  /-- A byte that stands for no `bool` (neither 0 nor 1). -/
  | badBool (b : Byte)
  /-- A tolerance operand whose form byte is neither 0 nor 1. -/
  | badTolForm (b : Byte)
  /-- A tolerance operand with denominator 0 denotes no rational. -/
  | zeroDenominator
  deriving DecidableEq, Repr

/-- What a decoder of one part answers: the part and the bytes after it. -/
abbrev Parsed (α : Type) := Except DecodeError (α × List Byte)

/-! ## Operand bytes -/

/-- A `u8` operand. -/
def takeU8 : List Byte → Parsed U8
  | a :: rest => .ok (a, rest)
  | [] => .error .incomplete

/-- A `u16` operand, low byte first. -/
def takeU16 : List Byte → Parsed U16
  | a :: b :: rest => .ok (b ++ a, rest)
  | _ => .error .incomplete

/-- A 64-bit operand (`f64` bits, an address), low byte first. -/
def takeU64 : List Byte → Parsed (BitVec 64)
  | a :: b :: c :: d :: e :: f :: g :: h :: rest =>
    .ok (h ++ g ++ f ++ e ++ d ++ c ++ b ++ a, rest)
  | _ => .error .incomplete

/-- A `bool` operand: 0 is false, 1 is true. -/
def takeBool : List Byte → Parsed Bool
  | a :: rest =>
    if a = 0 then .ok (false, rest) else if a = 1 then .ok (true, rest) else .error (.badBool a)
  | [] => .error .incomplete

/-- The seven legal values of `bit_index` (R81). -/
def BitIndex.ofNat? : Nat → Option BitIndex
  | 0 => some .clockSelect
  | 1 => some .pwmEnable
  | 2 => some .pwmStart
  | 3 => some .continuousOnce
  | 4 => some .outputEnable
  | 5 => some .interrupt
  | 7 => some .resetCounter
  | _ => none

/-- The bit position a `bit_index` names (R16, R81). -/
def BitIndex.toNat : BitIndex → Nat
  | .clockSelect => 0
  | .pwmEnable => 1
  | .pwmStart => 2
  | .continuousOnce => 3
  | .outputEnable => 4
  | .interrupt => 5
  | .resetCounter => 7

/-- A `bit_index` operand; 6 and values above 7 are refused (R81). -/
def takeBitIndex : List Byte → Parsed BitIndex
  | a :: rest =>
    match BitIndex.ofNat? a.toNat with
    | some i => .ok (i, rest)
    | none => .error (.badBitIndex a.toNat)
  | [] => .error .incomplete

/-- A natural number of any size: seven bits a byte, lowest first, bit 7 of a byte set while more follow. -/
def takeNat : List Byte → Parsed Nat
  | [] => .error .incomplete
  | b :: rest =>
    if b.toNat < 128 then .ok (b.toNat, rest)
    else
      match takeNat rest with
      | .ok (v, rest') => .ok (b.toNat - 128 + 128 * v, rest')
      | .error e => .error e

/-- The tolerance of `new`: form byte 0 is the default 1/100 (R101), form byte 1 is followed by a
numerator and a denominator. -/
def takeTol : List Byte → Parsed Rat
  | [] => .error .incomplete
  | form :: rest =>
    if form = 0 then .ok (defaultTol, rest)
    else if form = 1 then
      match takeNat rest with
      | .error e => .error e
      | .ok (num, rest') =>
        match takeNat rest' with
        | .error e => .error e
        | .ok (den, rest'') =>
          if den = 0 then .error .zeroDenominator else .ok (mkRat (num : Int) den, rest'')
    else .error (.badTolForm form)

/-- Applies a constructor to a parsed operand. -/
def withOperand {α : Type} (mk : α → Instr) (p : Parsed α) : Parsed Instr :=
  match p with
  | .ok (a, rest) => .ok (mk a, rest)
  | .error e => .error e

/-- The three `f64` operands of `configure`, in the order of R55. -/
def takeConfigure (bytes : List Byte) : Parsed Instr :=
  match takeU64 bytes with
  | .error e => .error e
  | .ok (f, rest) =>
    match takeU64 rest with
    | .error e => .error e
    | .ok (r, rest') => withOperand (Instr.configure f r) (takeU64 rest')

/-- The operands of `new`: the address, then the tolerance. -/
def takeNew (bytes : List Byte) : Parsed Instr :=
  match takeU64 bytes with
  | .error e => .error e
  | .ok (base, rest) => withOperand (Instr.new base) (takeTol rest)

/-! ## Selectors -/

/-- Format BUS: the fields `we`, `size16`, `offset` the hardware sees (R53). -/
def decodeBus (write size16 : Bool) (offset : Nat) (rest : List Byte) : Parsed Instr :=
  match write, size16, offset with
  | false, true, 0x0 => .ok (.read16Period, rest)
  | true, true, 0x0 => withOperand .write16Period (takeU16 rest)
  | false, true, 0x4 => .ok (.read16Duty, rest)
  | true, true, 0x4 => withOperand .write16Duty (takeU16 rest)
  | false, false, 0x8 => .ok (.read8Control, rest)
  | true, false, 0x8 => withOperand .write8Control (takeU8 rest)
  | false, true, 0xC => .ok (.read16Clock, rest)
  | true, true, 0xC => withOperand .write16Clock (takeU16 rest)
  | _, _, _ => .error (.notAdmitted write size16 offset)

/-- Format RV: selector `0x40 + n` (R54). -/
def decodeRv (selector : Byte) (n : Nat) (rest : List Byte) : Parsed Instr :=
  match n with
  | 0 => .ok (.readPeriod, rest)
  | 1 => withOperand .writePeriod (takeU16 rest)
  | 2 => .ok (.readDuty, rest)
  | 3 => withOperand .writeDuty (takeU16 rest)
  | 4 => .ok (.readClock, rest)
  | 5 => withOperand .writeClock (takeU16 rest)
  | 6 => .ok (.readControl, rest)
  | 7 => withOperand .writeControl (takeU8 rest)
  | 8 => withOperand .setBit (takeBitIndex rest)
  | 9 => withOperand .clearBit (takeBitIndex rest)
  | 10 => withOperand .testBit (takeBitIndex rest)
  | _ => .error (.invalidSelector selector)

/-- Format CTL: selector `0x80 + n` (R55). -/
def decodeCtl (selector : Byte) (n : Nat) (rest : List Byte) : Parsed Instr :=
  match n with
  | 0 => takeConfigure rest
  | 1 => withOperand .start (takeBool rest)
  | 2 => .ok (.stop, rest)
  | 3 => .ok (.resetCounter, rest)
  | 4 => withOperand .selectClockSource (takeBool rest)
  | 5 => .ok (.interruptOccurred, rest)
  | 6 => .ok (.acknowledgeInterrupt, rest)
  | 7 => takeNew rest
  | _ => .error (.invalidSelector selector)

/-- Format EVENT: selectors 0xC0 and 0xC1 (R56). -/
def decodeEvent (selector : Byte) (n : Nat) (rest : List Byte) : Parsed Instr :=
  match n with
  | 0 => .ok (.hwCycleComplete, rest)
  | 1 => .ok (.hwResetAutoClear, rest)
  | _ => .error (.invalidSelector selector)

/-- The format a selector's top two bits name (R52). -/
def Format.ofSelector (selector : Byte) : Format :=
  match selector.toNat / 64 with
  | 0 => .bus
  | 1 => .rv
  | 2 => .ctl
  | _ => .event

/-- Reads one operation off the front of the stream: the selector's top two bits choose the format (R52). -/
def decode : List Byte → Parsed Instr
  | [] => .error .incomplete
  | selector :: rest =>
    match Format.ofSelector selector with
    | .bus =>
      decodeBus (selector.getLsbD 5) (selector.getLsbD 4) (selector.toNat % 16) rest
    | .rv => decodeRv selector (selector.toNat % 64) rest
    | .ctl => decodeCtl selector (selector.toNat % 64) rest
    | .event => decodeEvent selector (selector.toNat % 64) rest

/-! ## The encoder, from the same tables -/

/-- `{00, we, size16, offset}` of R53. -/
def busSelector (write size16 : Bool) (offset : BitVec 4) : Byte :=
  0#2 ++ BitVec.ofBool write ++ BitVec.ofBool size16 ++ offset

/-- The selector of each row of spec/opcode_table.json (R53 to R56). -/
def Instr.selector : Instr → Byte
  | .read16Period => busSelector false true 0x0
  | .write16Period _ => busSelector true true 0x0
  | .read16Duty => busSelector false true 0x4
  | .write16Duty _ => busSelector true true 0x4
  | .read8Control => busSelector false false 0x8
  | .write8Control _ => busSelector true false 0x8
  | .read16Clock => busSelector false true 0xC
  | .write16Clock _ => busSelector true true 0xC
  | .readPeriod => 0x40
  | .writePeriod _ => 0x41
  | .readDuty => 0x42
  | .writeDuty _ => 0x43
  | .readClock => 0x44
  | .writeClock _ => 0x45
  | .readControl => 0x46
  | .writeControl _ => 0x47
  | .setBit _ => 0x48
  | .clearBit _ => 0x49
  | .testBit _ => 0x4A
  | .configure _ _ _ => 0x80
  | .start _ => 0x81
  | .stop => 0x82
  | .resetCounter => 0x83
  | .selectClockSource _ => 0x84
  | .interruptOccurred => 0x85
  | .acknowledgeInterrupt => 0x86
  | .new _ _ => 0x87
  | .hwCycleComplete => 0xC0
  | .hwResetAutoClear => 0xC1

/-- A `u16` operand, low byte first. -/
def bytesU16 (v : U16) : List Byte := [v.extractLsb' 0 8, v.extractLsb' 8 8]

/-- A 64-bit operand, low byte first. -/
def bytesU64 (v : BitVec 64) : List Byte :=
  [v.extractLsb' 0 8, v.extractLsb' 8 8, v.extractLsb' 16 8, v.extractLsb' 24 8,
   v.extractLsb' 32 8, v.extractLsb' 40 8, v.extractLsb' 48 8, v.extractLsb' 56 8]

/-- A `bool` operand. -/
def bytesBool (b : Bool) : List Byte := [if b then 1 else 0]

/-- A `bit_index` operand. -/
def bytesBitIndex (i : BitIndex) : List Byte := [BitVec.ofNat 8 i.toNat]

/-- A natural number in at most `fuel + 1` bytes of seven bits. -/
def bytesNatFuel : Nat → Nat → List Byte
  | 0, n => [BitVec.ofNat 8 (n % 128)]
  | fuel + 1, n =>
    if n < 128 then [BitVec.ofNat 8 n]
    else BitVec.ofNat 8 (128 + n % 128) :: bytesNatFuel fuel (n / 128)

/-- A natural number of any size, as `takeNat` reads it. -/
def bytesNat (n : Nat) : List Byte := bytesNatFuel n n

/-- A tolerance: the default in one byte, any other as numerator and denominator. -/
def bytesTol (tol : Rat) : List Byte :=
  if tol = defaultTol then [0] else 1 :: (bytesNat tol.num.toNat ++ bytesNat tol.den)

/-- The operand bytes that follow the selector. -/
def Instr.operandBytes : Instr → List Byte
  | .read16Period => []
  | .write16Period v => bytesU16 v
  | .read16Duty => []
  | .write16Duty v => bytesU16 v
  | .read8Control => []
  | .write8Control v => [v]
  | .read16Clock => []
  | .write16Clock v => bytesU16 v
  | .readPeriod => []
  | .writePeriod v => bytesU16 v
  | .readDuty => []
  | .writeDuty v => bytesU16 v
  | .readClock => []
  | .writeClock v => bytesU16 v
  | .readControl => []
  | .writeControl v => [v]
  | .setBit i => bytesBitIndex i
  | .clearBit i => bytesBitIndex i
  | .testBit i => bytesBitIndex i
  | .configure f r s => bytesU64 f ++ (bytesU64 r ++ bytesU64 s)
  | .start c => bytesBool c
  | .stop => []
  | .resetCounter => []
  | .selectClockSource e => bytesBool e
  | .interruptOccurred => []
  | .acknowledgeInterrupt => []
  | .new base tol => bytesU64 base ++ bytesTol tol
  | .hwCycleComplete => []
  | .hwResetAutoClear => []

/-- The bytes that present an operation. -/
def encode (i : Instr) : List Byte := i.selector :: i.operandBytes

/-! ## The opcode table's numbering of the bits -/

/-- The bytes of an instruction whose first `nbits` bits are `w`, bit 0 the lowest of the first byte, and
whose further bits are 0, as long as the longest instruction of fixed length (`configure`, 25 bytes). -/
def tableBytes (nbits w : Nat) : List Byte :=
  (List.range 25).map (fun k => BitVec.ofNat 8 ((w % 2 ^ nbits) / 2 ^ (8 * k)))

/-- The operation the decoder reads from a word of spec/opcode_table.json. -/
def decodeTableWord (nbits w : Nat) : Option Instr :=
  match decode (tableBytes nbits w) with
  | .ok (i, _) => some i
  | .error _ => none

end Sys2Proof
end

