-- ==== Sys2Proof/Machine/State.lean ====
section
/-! DEFINITION. The machine's state as plain data, its reset, and the reasons a step can stop.
The architectural state is the four registers of spec/10_state.md R11; the controller's own fields are
`BASE` and `TOL` (R29); the rest is the model's: the parameters (R6), what the agents present to the block,
the choices the spec leaves to the hardware and the other contexts (R10, R41, R115), and a record of what
the latest operation did, so that statements can speak of its transactions and its result. -/

namespace Sys2Proof.Machine

/-- The three 16-bit registers (R13 to R15). -/
inductive WideReg where
  | period
  | duty
  | clock
  deriving DecidableEq, Repr

/-- The four registers (R11). -/
inductive Reg where
  | wide (r : WideReg)
  | control
  deriving DecidableEq, Repr

/-- The eight admitted bus transactions (R36), with the data of a write. -/
inductive Transaction where
  | readWide (r : WideReg)
  | writeWide (r : WideReg) (v : U16)
  | readControl
  | writeControl (v : U8)
  deriving DecidableEq, Repr

/-- The hardware's own events (R115). -/
inductive HwEvent where
  | cycleComplete
  | resetAutoClear
  deriving DecidableEq, Repr

/-- Something that takes its place in the total order between two transactions of one operation:
an event of the hardware (R115), or a transaction of another software context (R41, R46, R47). -/
inductive Occurrence where
  | event (e : HwEvent)
  | foreign (t : Transaction)
  deriving DecidableEq, Repr

/-- Whose transaction: the operation's own, or another software context's. -/
inductive Issuer where
  | own
  | other
  deriving DecidableEq, Repr

/-- One entry of the record of an operation: what reached the block, at which offset, and the data
moved, as spec/95_test_vectors.md writes a bus trace. -/
inductive Entry where
  | read16 (who : Issuer) (offset : Nat) (v : U16)
  | write16 (who : Issuer) (offset : Nat) (v : U16)
  | read8 (who : Issuer) (offset : Nat) (v : U8)
  | write8 (who : Issuer) (offset : Nat) (v : U8)
  | faulted (who : Issuer) (address bytes : Nat)
  | event (e : HwEvent)
  deriving DecidableEq, Repr

/-- The three values of `ConfigError` (R123), returned to the caller. -/
inductive ConfigError where
  | frequencyUnachievable
  | invalidDutyRatio
  | mustBeStoppedFirst
  deriving DecidableEq, Repr

/-- What a successful operation returns (the result columns of R53 to R55). -/
inductive Value where
  | unit
  | u16 (v : U16)
  | u8 (v : U8)
  | bool (b : Bool)
  | controller
  deriving DecidableEq, Repr

/-- The outcome of the latest operation as its caller sees it (R9): `Ok(value)` or `Err(kind)`;
`none` before the first operation. The third outcome of R9 is `Fault.registerAccessFault`. -/
inductive Result where
  | none
  | ok (v : Value)
  | err (k : ConfigError)
  deriving DecidableEq, Repr

/-- The state. -/
structure State where
  /-- PERIOD, offset 0x00 (R13). -/
  period : U16
  /-- DUTY, offset 0x04 (R14). -/
  duty : U16
  /-- CONTROL, offset 0x08 (R16). -/
  control : U8
  /-- CLOCK, offset 0x0C (R15). -/
  clock : U16
  /-- `BASE`, the controller's own field (R6, R29). -/
  base : Address
  /-- `TOL`, the controller's own field (R6, R29). -/
  tol : Rat
  /-- The parameters of R6; no step changes them. -/
  cfg : Config
  /-- The model's own: the bytes of the operations still to be taken, in the total order of R44. -/
  inbox : List Byte
  /-- The model's own: the k-th entry is what falls between the two transactions at the k-th next place
  between two transactions of one operation (R41, R115); past its end nothing does
  (DESIGN CHOICE, notes/assumptions/8.md). -/
  gaps : List (List Occurrence)
  /-- The model's own, read only without the premise `MAPPED` (R51): whether the k-th next transaction,
  the operation's own or another context's, meets a fault of the access primitive; past its end none does
  (DESIGN CHOICE, notes/assumptions/12.md). -/
  busFaults : List Bool
  /-- The model's own: the result of the latest operation (R9). -/
  result : Result
  /-- The model's own: what reached the block during the latest operation, oldest first (R44;
  DESIGN CHOICE, notes/assumptions/9.md). -/
  trace : List Entry
  deriving DecidableEq, Repr

/-- Why the machine stops with a fault. -/
inductive Fault where
  /-- `RegisterAccessFault` (R127), raised by a transaction that is not admitted (R37) and, without the
  premise `MAPPED`, by any transaction the access primitive fails (R51). It carries the faulted state,
  in which registers written earlier stay written and which has no successor (R127;
  spec/93_implementation_defined.md U17). Safe: the machine stops. -/
  | registerAccessFault (left : State)
  deriving DecidableEq, Repr

/-- Why the model gives a step no meaning. -/
inductive Refusal where
  /-- An instruction that has no meaning in the model yet, by its mnemonic. Raised by no arm. Safe. -/
  | notModelled (mnemonic : String)
  /-- Raised by the fetch: the stream ends inside an operation. Safe. -/
  | incompleteOperation
  /-- Raised by the fetch: a selector that names no operation (R60 d). Safe. -/
  | invalidSelector (selector : Byte)
  /-- Raised by the fetch: `bit_index` 6 or above 7, which R81 refuses. Safe. -/
  | bitIndexRefused (n : Nat)
  /-- Raised by the fetch: bytes that stand for no value of the operand's type (R57: a `bool`, a
  rational tolerance). Safe. -/
  | operandNotAValue
  /-- Raised by `execNew`: a base or a tolerance that R35, R38 or R101 does not admit. Safe. -/
  | constructorArgumentNotAdmitted
  deriving DecidableEq, Repr

namespace State

/-- The state after reset for given values of the parameters (R32): bits 7, 5 and 2 of CONTROL are 0
whatever `RESET_CONTROL` is, and every other bit is the parameter's. -/
def resetWith (v : ResetValues) (cfg : Config) : State :=
  { period := v.period
    duty := v.duty
    control := v.control &&& 0x5B
    clock := v.clock
    base := 0
    tol := defaultTol
    cfg := cfg
    inbox := []
    gaps := []
    busFaults := []
    result := .none
    trace := [] }

/-- The machine right after reset, which is what a newly constructed controller finds (R32, R140).
The open values are the model's (notes/assumptions/1.md, 2.md, 3.md). -/
def reset : State := resetWith ResetValues.chosen Config.chosen

end State

end Sys2Proof.Machine
end

