-- ==== Sys2Proof/Machine/Flags.lean ====
section
/-! DEFINITION. The CONTROL register bit by bit (spec/10_state.md R16 to R27, spec/30_encoding.md R58, R59)
and the effect of a write to it (spec/40_bus_transactions.md R63). -/

namespace Sys2Proof.Machine

/-! ## Masks and bits (R58) -/

/-- The mask of a `bit_index`, `1 << bit_index` at 8 bits. -/
def bitMask (i : BitIndex) : U8 := 1#8 <<< i.toNat

/-- The flag a `bit_index` names, `(c >> bit_index) & 1 = 1` (R84). -/
def flag (i : BitIndex) (c : U8) : Bool := c.getLsbD i.toNat

/-- The reserved bit 6 (R18). -/
def reservedBit (c : U8) : Bool := c.getLsbD 6

/-! ## Writing CONTROL -/

/-- R63: bit 5 is cleared by a written 1 and kept by a written 0; every other bit is stored as written. -/
def controlWrite (old v : U8) : U8 := (v &&& 0xDF) ||| (old &&& ~~~v &&& 0x20)

/-- The value `set_bit` writes after reading `c` (R81, R82). -/
def setBitWord (i : BitIndex) (c : U8) : U8 := (c &&& ~~~0x20#8) ||| bitMask i

/-- The value `clear_bit` writes after reading `c` (R81, R83). -/
def clearBitWord (i : BitIndex) (c : U8) : U8 := c &&& ~~~0x20#8 &&& ~~~(bitMask i)

/-! ## What the hardware's events do to CONTROL -/

/-- The enabling condition of an event (R116, R118). -/
def eventEnabled (cfg : Config) (c : U8) : HwEvent → Bool
  | .cycleComplete => flag .pwmStart c
  | .resetAutoClear => cfg.resetSelfClear && flag .resetCounter c

/-- The effect of an enabled event on CONTROL (R116, R118; the variants of U5 to U8 are not modelled,
notes/assumptions/14.md). -/
def eventEffect (c : U8) : HwEvent → U8
  | .cycleComplete =>
    let raised := c ||| bitMask .interrupt
    if flag .continuousOnce c then raised else raised &&& ~~~(bitMask .pwmStart)
  | .resetAutoClear => c &&& ~~~(bitMask .resetCounter)

/-! ## The tagged enumerations of R59 -/

inductive ResetCounter where
  | idle
  | reset
  deriving DecidableEq, Repr

inductive Interrupt where
  | none
  | occurred
  deriving DecidableEq, Repr

inductive OutputEnable where
  | disabled
  | enabled
  deriving DecidableEq, Repr

inductive RunMode where
  | once
  | continuous
  deriving DecidableEq, Repr

inductive StartLevel where
  | stopped
  | started
  deriving DecidableEq, Repr

inductive Mode where
  | timer
  | pwm
  deriving DecidableEq, Repr

inductive ClockSource where
  | internal
  | external
  deriving DecidableEq, Repr

/-- CONTROL taken apart into its seven flags and the reserved bit. -/
structure ControlFields where
  resetCounter : ResetCounter
  reserved : Bool
  interrupt : Interrupt
  outputEnable : OutputEnable
  runMode : RunMode
  start : StartLevel
  mode : Mode
  clockSource : ClockSource
  deriving DecidableEq, Repr

/-- `start(continuous)`: true is `Continuous`, false is `Once` (R59). -/
def runModeOfBool (continuous : Bool) : RunMode := if continuous then .continuous else .once

/-- `select_clock_source(external)`: true is `External`, false is `Internal` (R59). -/
def clockSourceOfBool (external : Bool) : ClockSource := if external then .external else .internal

/-- Unpacks CONTROL (R2, R16, R59). -/
def unpackControl (c : U8) : ControlFields :=
  { resetCounter := if flag .resetCounter c then .reset else .idle
    reserved := reservedBit c
    interrupt := if flag .interrupt c then .occurred else .none
    outputEnable := if flag .outputEnable c then .enabled else .disabled
    runMode := runModeOfBool (flag .continuousOnce c)
    start := if flag .pwmStart c then .started else .stopped
    mode := if flag .pwmEnable c then .pwm else .timer
    clockSource := clockSourceOfBool (flag .clockSelect c) }

/-- Packs the fields back into the register's value (R2, R16, R59). -/
def packControl (f : ControlFields) : U8 :=
  BitVec.ofBool (f.resetCounter == .reset) ++ BitVec.ofBool f.reserved ++
  BitVec.ofBool (f.interrupt == .occurred) ++ BitVec.ofBool (f.outputEnable == .enabled) ++
  BitVec.ofBool (f.runMode == .continuous) ++ BitVec.ofBool (f.start == .started) ++
  BitVec.ofBool (f.mode == .pwm) ++ BitVec.ofBool (f.clockSource == .external)

/-! ## The channel's abstract state (R27) -/

inductive ChannelState where
  | stopped
  | running (mode : RunMode)
  deriving DecidableEq, Repr

/-- R27: a function of CONTROL alone. -/
def channelState (c : U8) : ChannelState :=
  if flag .pwmStart c then .running (runModeOfBool (flag .continuousOnce c)) else .stopped

end Sys2Proof.Machine
end

