-- ==== Sys2Proof/Machine/Operands.lean ====
section
/-! DEFINITION. The operand forms that need reading: `f64` arguments as exact rationals
(spec/42_configure_pipeline.md R86) and register offsets (spec/30_encoding.md R58). -/

namespace Sys2Proof.Machine

/-- What an `f64` denotes (R57, R86): one rational, or one of the three kinds of non-number. -/
inductive Num64 where
  | finite (q : Rat)
  | posInf
  | negInf
  | nan
  deriving DecidableEq, Repr

/-- The value of a binary64 bit pattern: sign bit 63, exponent bits 62..52, fraction bits 51..0; an
exponent field of 0 is a zero or a subnormal. `-0.0` denotes 0 (R86). The format itself is PRESUMED,
as R57 marks it (notes/assumptions/7.md). -/
def f64Value (x : F64) : Num64 :=
  let negative := x.getLsbD 63
  let exponent := (x.extractLsb' 52 11).toNat
  let fraction := (x.extractLsb' 0 52).toNat
  if exponent = 2047 then
    if fraction = 0 then (if negative then .negInf else .posInf) else .nan
  else
    let significand := if exponent = 0 then fraction else 2 ^ 52 + fraction
    let scale := if exponent = 0 then 1 else exponent
    let magnitude := significand * 2 ^ (scale - 1075)
    .finite (mkRat (if negative then -(magnitude : Int) else magnitude) (2 ^ (1075 - scale)))

/-- Line 1 of R85: the duty ratio, if it is a number in [0, 1] (R87). -/
def dutyRatioValue : Num64 → Option Rat
  | .finite r => if 0 ≤ r ∧ r ≤ 1 then some r else none
  | .posInf => none
  | .negInf => none
  | .nan => none

/-- Line 2 of R85: a frequency, if it is a positive finite number (R86). -/
def positiveValue : Num64 → Option Rat
  | .finite f => if 0 < f then some f else none
  | .posInf => none
  | .negInf => none
  | .nan => none

/-- `OFF_PERIOD`, `OFF_DUTY`, `OFF_CLOCK` (R34, R58). -/
def wideOffset : WideReg → Nat
  | .period => 0x00
  | .duty => 0x04
  | .clock => 0x0C

/-- `OFF_CONTROL` (R34, R58). -/
def controlOffset : Nat := 0x08

end Sys2Proof.Machine
end

