-- ==== Sys2Proof/Machine/Ops.lean ====
section
/-! DEFINITION. The named operations every meaning is built from: register storage, the register window and
its transactions (spec/20_memory.md), the hardware's events, what falls between two transactions of one
operation, the read-modify-write, and the ways an operation ends (spec/00_scope.md R8, R9). -/

namespace Sys2Proof.Machine

/-- Where a sequence of transactions has got to: a value and the state reached, or the fatal fault. -/
abbrev Bus (α : Type) := Except Fault (α × State)

/-- Goes on with what a transaction answered; after a fault no further transaction is issued (R51). -/
def andThen {α β : Type} (x : Bus α) (k : α → State → Bus β) : Bus β :=
  match x with
  | .error f => .error f
  | .ok (a, s) => k a s

/-! ## Registers -/

/-- The stored value of a 16-bit register. -/
def wideGet (r : WideReg) (s : State) : U16 :=
  match r with
  | .period => s.period
  | .duty => s.duty
  | .clock => s.clock

/-- Stores a 16-bit register: nothing else changes, nothing is checked (R13 to R15, R43). -/
def wideSet (r : WideReg) (v : U16) (s : State) : State :=
  match r with
  | .period => { s with period := v }
  | .duty => { s with duty := v }
  | .clock => { s with clock := v }

/-- `ResetCounter()` (R119): the counter is no modelled state (R28), so nothing changes. -/
def resetCounterEffect (s : State) : State := s

/-- What a write of `v` to CONTROL does to the state (R69). -/
def controlSet (v : U8) (s : State) : State :=
  let s := if flag .resetCounter v then resetCounterEffect s else s
  { s with control := controlWrite s.control v }

/-- Adds an entry to the record of the operation. -/
def log (e : Entry) (s : State) : State := { s with trace := s.trace ++ [e] }

/-! ## The register window -/

/-- The register that answers an access of `n` bytes at a byte offset: each at its own width and its own
offset, and nothing else (R34, R36, R37). -/
def windowRegister (offset n : Nat) : Option Reg :=
  if n = 2 then
    if offset = wideOffset .period then some (.wide .period)
    else if offset = wideOffset .duty then some (.wide .duty)
    else if offset = wideOffset .clock then some (.wide .clock)
    else none
  else if n = 1 then
    if offset = controlOffset then some .control else none
  else none

/-- `RegisterAccessFault` at an access (R127): the ONE place a transaction's fault is raised. -/
def accessFault (who : Issuer) (address n : Nat) (s : State) : Fault :=
  .registerAccessFault (log (.faulted who address n) s)

/-- Whether an access reaches a register: the transaction is admitted (R36, R37), and the access primitive
does not fault, which it never does under `MAPPED` and may do at any transaction of any context without it
(R51, R127). -/
def grant (who : Issuer) (address n : Nat) (s : State) : Bus Reg :=
  if address < s.base.toNat then .error (accessFault who address n s)
  else
    match windowRegister (address - s.base.toNat) n with
    | none => .error (accessFault who address n s)
    | some r =>
      if s.cfg.mapped then .ok (r, s)
      else
        match s.busFaults with
        | [] => .ok (r, s)
        | true :: rest => .error (accessFault who address n { s with busFaults := rest })
        | false :: rest => .ok (r, { s with busFaults := rest })

/-- `MemRead(addr, n)` of R8: the register's value, zero-extended; a read changes no register (R42). -/
def memRead (who : Issuer) (address n : Nat) (s : State) : Bus U16 :=
  andThen (grant who address n s) fun r s =>
    match r with
    | .wide w => .ok (wideGet w s, log (.read16 who (wideOffset w) (wideGet w s)) s)
    | .control => .ok (s.control.setWidth 16, log (.read8 who controlOffset s.control) s)

/-- `MemWrite(addr, n, v)` of R8: one register is replaced, at once (R40, R62). -/
def memWrite (who : Issuer) (address n : Nat) (v : U16) (s : State) : Bus Unit :=
  andThen (grant who address n s) fun r s =>
    match r with
    | .wide w => .ok ((), log (.write16 who (wideOffset w) v) (wideSet w v s))
    | .control =>
      .ok ((), log (.write8 who controlOffset (v.setWidth 8)) (controlSet (v.setWidth 8) s))

/-- `BASE + offset`, without wrap-around (R35). -/
def effectiveAddress (offset : Nat) (s : State) : Nat := s.base.toNat + offset

/-- `read16(off)` of R8. -/
def read16 (offset : Nat) (s : State) : Bus U16 := memRead .own (effectiveAddress offset s) 2 s

/-- `write16(off, v)` of R8. -/
def write16 (offset : Nat) (v : U16) (s : State) : Bus Unit :=
  memWrite .own (effectiveAddress offset s) 2 v s

/-- `read8(off)` of R8. -/
def read8 (offset : Nat) (s : State) : Bus U8 :=
  andThen (memRead .own (effectiveAddress offset s) 1 s) fun v s => .ok (v.setWidth 8, s)

/-- `write8(off, v)` of R8. -/
def write8 (offset : Nat) (v : U8) (s : State) : Bus Unit :=
  memWrite .own (effectiveAddress offset s) 1 (v.setWidth 16) s

/-! ## The hardware's events, and what falls between two transactions -/

/-- A hardware event (R115): it changes CONTROL only, and only where it is enabled. Where it is not enabled
it does not occur, and the state stays as it is. -/
def hwEvent (e : HwEvent) (s : State) : State :=
  if eventEnabled s.cfg s.control e then
    log (.event e) { s with control := eventEffect s.control e }
  else s

/-- A transaction of another software context: the same access as an operation's own, so without `MAPPED` it
may end in `RegisterAccessFault` (R51, R127). Its reads change no register (R42, R47); its writes fall inside
an operation only when the premise `EXCLUSIVE_MUTATORS` is dropped (R46). -/
def foreignAccess (t : Transaction) (s : State) : Bus Unit :=
  match t with
  | .readWide r =>
    andThen (memRead .other (effectiveAddress (wideOffset r) s) 2 s) fun _ s => .ok ((), s)
  | .readControl =>
    andThen (memRead .other (effectiveAddress controlOffset s) 1 s) fun _ s => .ok ((), s)
  | .writeWide r v =>
    if s.cfg.exclusiveMutators then .ok ((), s)
    else memWrite .other (effectiveAddress (wideOffset r) s) 2 v s
  | .writeControl v =>
    if s.cfg.exclusiveMutators then .ok ((), s)
    else memWrite .other (effectiveAddress controlOffset s) 1 (v.setWidth 16) s

/-- One occurrence, at its place in the total order (R44). -/
def occur (o : Occurrence) (s : State) : Bus Unit :=
  match o with
  | .event e => .ok ((), hwEvent e s)
  | .foreign t => foreignAccess t s

/-- Occurrences in order, up to a fault. -/
def occurAll : List Occurrence → State → Bus Unit
  | [], s => .ok ((), s)
  | o :: rest, s => andThen (occur o s) fun _ s => occurAll rest s

/-- The place between two transactions of one operation (R41, R115): the occurrences the state's choice puts
there happen, in order. -/
def gap (s : State) : Bus Unit :=
  match s.gaps with
  | [] => .ok ((), s)
  | here :: later => occurAll here { s with gaps := later }

/-- Goes on to a further transaction of the same operation, with the place for other agents before it. -/
def andThenGap {α β : Type} (x : Bus α) (k : α → State → Bus β) : Bus β :=
  andThen x fun a s => andThen (gap s) fun _ s => k a s

/-- A read-modify-write of CONTROL: one `read8`, then one `write8`, not atomic together (R41, R81). -/
def modifyControl (f : U8 → U8) (s : State) : Bus Unit :=
  andThenGap (read8 controlOffset s) fun c s => write8 controlOffset (f c) s

/-! ## How an operation ends (R8, R9) -/

/-- `return v`. -/
def returnValue (v : Value) (s : State) : Bus Result := .ok (.ok v, s)

/-- `raise <Kind>` for a `ConfigError`: the operation ends at once with `Err(kind)`; nothing is saved, no
mode changes, no register is altered (R129). -/
def raiseError (k : ConfigError) (s : State) : Bus Result := .ok (.err k, s)

/-- Runs one operation from a fresh record: its result is what the caller gets (R9), and a fault is fatal
(R127). -/
def perform (op : State → Bus Result) (s : State) : Host.Outcome State Fault Refusal :=
  match op { s with trace := [] } with
  | .ok (r, t) => .next { t with result := r }
  | .error f => .fault f

/-- Runs an operation that always returns `Ok`, wrapping what it answers. -/
def performOk {α : Type} (wrap : α → Value) (op : State → Bus α) (s : State) :
    Host.Outcome State Fault Refusal :=
  perform (fun s => andThen (op s) fun a s => returnValue (wrap a) s) s

end Sys2Proof.Machine
end

