-- ==== Sys2Proof/Machine/Bus.lean ====
section
/-! DEFINITION. Format BUS: the eight bus transactions (spec/40_bus_transactions.md R64 to R71). -/

namespace Sys2Proof.Machine

/-- `read16(0x00)` (R64). -/
def execRead16Period (s : State) : Host.Outcome State Fault Refusal :=
  performOk .u16 (read16 0x00) s

/-- `write16(0x00, v)` (R65). -/
def execWrite16Period (v : U16) (s : State) : Host.Outcome State Fault Refusal :=
  performOk (fun _ => .unit) (write16 0x00 v) s

/-- `read16(0x04)` (R66). -/
def execRead16Duty (s : State) : Host.Outcome State Fault Refusal :=
  performOk .u16 (read16 0x04) s

/-- `write16(0x04, v)` (R67). -/
def execWrite16Duty (v : U16) (s : State) : Host.Outcome State Fault Refusal :=
  performOk (fun _ => .unit) (write16 0x04 v) s

/-- `read8(0x08)` (R68). -/
def execRead8Control (s : State) : Host.Outcome State Fault Refusal :=
  performOk .u8 (read8 0x08) s

/-- `write8(0x08, v)` (R69). -/
def execWrite8Control (v : U8) (s : State) : Host.Outcome State Fault Refusal :=
  performOk (fun _ => .unit) (write8 0x08 v) s

/-- `read16(0x0C)` (R70). -/
def execRead16Clock (s : State) : Host.Outcome State Fault Refusal :=
  performOk .u16 (read16 0x0C) s

/-- `write16(0x0C, v)` (R71). -/
def execWrite16Clock (v : U16) (s : State) : Host.Outcome State Fault Refusal :=
  performOk (fun _ => .unit) (write16 0x0C v) s

end Sys2Proof.Machine
end

