-- ==== Sys2Proof/Machine/RegisterView.lean ====
section
/-! DEFINITION. Format RV: the RegisterView operations (spec/41_registerview.md R72 to R84). Each issues the
transactions its rule lists and nothing else; none validates anything (R72). -/

namespace Sys2Proof.Machine

/-! ## The operations, as the controller uses them -/

/-- `write_period(v)` (R74). -/
def writePeriod (v : U16) (s : State) : Bus Unit := write16 (wideOffset .period) v s

/-- `write_duty(v)` (R76). -/
def writeDuty (v : U16) (s : State) : Bus Unit := write16 (wideOffset .duty) v s

/-- `write_clock(v)` (R78). -/
def writeClock (v : U16) (s : State) : Bus Unit := write16 (wideOffset .clock) v s

/-- `set_bit(bit_index)` (R82). -/
def setBit (i : BitIndex) (s : State) : Bus Unit := modifyControl (setBitWord i) s

/-- `clear_bit(bit_index)` (R83). -/
def clearBit (i : BitIndex) (s : State) : Bus Unit := modifyControl (clearBitWord i) s

/-- `test_bit(bit_index)` (R84): one read, no write. -/
def testBit (i : BitIndex) (s : State) : Bus Bool :=
  andThen (read8 controlOffset s) fun c s => .ok (flag i c, s)

/-! ## The meanings -/

/-- `read_period()` (R73). -/
def execReadPeriod (s : State) : Host.Outcome State Fault Refusal :=
  performOk .u16 (read16 (wideOffset .period)) s

/-- `write_period(v)` (R74). -/
def execWritePeriod (v : U16) (s : State) : Host.Outcome State Fault Refusal :=
  performOk (fun _ => .unit) (writePeriod v) s

/-- `read_duty()` (R75). -/
def execReadDuty (s : State) : Host.Outcome State Fault Refusal :=
  performOk .u16 (read16 (wideOffset .duty)) s

/-- `write_duty(v)` (R76). -/
def execWriteDuty (v : U16) (s : State) : Host.Outcome State Fault Refusal :=
  performOk (fun _ => .unit) (writeDuty v) s

/-- `read_clock()` (R77). -/
def execReadClock (s : State) : Host.Outcome State Fault Refusal :=
  performOk .u16 (read16 (wideOffset .clock)) s

/-- `write_clock(v)` (R78). -/
def execWriteClock (v : U16) (s : State) : Host.Outcome State Fault Refusal :=
  performOk (fun _ => .unit) (writeClock v) s

/-- `read_control()` (R79). -/
def execReadControl (s : State) : Host.Outcome State Fault Refusal :=
  performOk .u8 (read8 controlOffset) s

/-- `write_control(v)` (R80): raw, the one RegisterView operation that can change bit 6. -/
def execWriteControl (v : U8) (s : State) : Host.Outcome State Fault Refusal :=
  performOk (fun _ => .unit) (write8 controlOffset v) s

/-- `set_bit(bit_index)` (R82). -/
def execSetBit (i : BitIndex) (s : State) : Host.Outcome State Fault Refusal :=
  performOk (fun _ => .unit) (setBit i) s

/-- `clear_bit(bit_index)` (R83). -/
def execClearBit (i : BitIndex) (s : State) : Host.Outcome State Fault Refusal :=
  performOk (fun _ => .unit) (clearBit i) s

/-- `test_bit(bit_index)` (R84). -/
def execTestBit (i : BitIndex) (s : State) : Host.Outcome State Fault Refusal :=
  performOk .bool (testBit i) s

end Sys2Proof.Machine
end

