-- ==== Sys2Proof/Machine/Configure.lean ====
section
/-! DEFINITION. `configure` (spec/42_configure_pipeline.md): the computation of (prescaler, period, duty) in
exact rational arithmetic (R86), then the Stopped check and the three writes. -/

namespace Sys2Proof.Machine

/-- `round(x) = floor(x + 1/2)` for `x ≥ 0`: the nearest integer, ties upward (R89). -/
def roundHalfUp (x : Rat) : Nat := (x + mkRat 1 2).floor.toNat

/-- The combined divisor `D = S / (2 * f)` (R88). -/
def divisor (systemClock frequency : Rat) : Rat := systemClock / (2 * frequency)

/-- `Cand(D, p) = round(D / p)` (R90). -/
def candidate (D : Rat) (p : Nat) : Nat := roundHalfUp (D / (p : Rat))

/-- A candidate fits iff it lies in 1..65535; the test is on the unbounded integer (R90, R100 d). -/
def fits (P : Nat) : Bool := decide (1 ≤ P) && decide (P ≤ 65535)

/-- Within tolerance: `|D - p*P| ≤ TOL * p * P`, the bound included (R91, R92). -/
def withinTolerance (D tol : Rat) (p P : Nat) : Bool :=
  decide (|D - (p : Rat) * (P : Rat)| ≤ tol * (p : Rat) * (P : Rat))

/-- The test of one prescaler in `Search` (R92). -/
def accepts (D tol : Rat) (p : Nat) : Bool :=
  fits (candidate D p) && withinTolerance D tol p (candidate D p)

/-- `Search(D, TOL)`: prescalers from 1 upward to 65535, the first that is accepted (R92). -/
def search (D tol : Rat) : Option (Nat × Nat) :=
  ((List.range' 1 65535).find? (accepts D tol)).map fun p => (p, candidate D p)

/-- `clamp(x, lo, hi)` of R94. -/
def clamp (x lo hi : Nat) : Nat := if x < lo then lo else if hi < x then hi else x

/-- `d = clamp(round(r * P), 0, P)` (R94). -/
def dutyFor (r : Rat) (P : Nat) : Nat := clamp (roundHalfUp (r * (P : Rat))) 0 P

/-- The three values the pipeline computes, as integers without a width (R100 d). -/
structure Triple where
  prescaler : Nat
  period : Nat
  duty : Nat
  deriving DecidableEq, Repr

/-- Lines 1 to 5 of R85: no transaction is issued, and the checks come in the order of R128. -/
def computeTriple (tol : Rat) (frequency dutyRatio systemClock : Num64) :
    Except ConfigError Triple :=
  match dutyRatioValue dutyRatio with
  | none => .error .invalidDutyRatio
  | some r =>
    match positiveValue frequency, positiveValue systemClock with
    | some f, some S =>
      match search (divisor S f) tol with
      | none => .error .frequencyUnachievable
      | some (p, P) => .ok { prescaler := p, period := P, duty := dutyFor r P }
    | _, _ => .error .frequencyUnachievable

/-- Lines 7 to 9 of R85: period, then duty, then clock (R96). -/
def applyTriple (x : Triple) (s : State) : Bus Result :=
  andThenGap (writePeriod (BitVec.ofNat 16 x.period) s) fun _ s =>
  andThenGap (writeDuty (BitVec.ofNat 16 x.duty) s) fun _ s =>
  andThen (writeClock (BitVec.ofNat 16 x.prescaler) s) fun _ s =>
  returnValue .unit s

/-- `configure` (R85). -/
def configureOp (frequency dutyRatio systemClock : Num64) (s : State) : Bus Result :=
  match computeTriple s.tol frequency dutyRatio systemClock with
  | .error k => raiseError k s
  | .ok x =>
    andThen (testBit .pwmStart s) fun running s =>
      if running then raiseError .mustBeStoppedFirst s
      else andThen (gap s) fun _ s => applyTriple x s

/-- `configure(frequency_hz, duty_ratio, system_clock_hz)` (R85). -/
def execConfigure (frequencyHz dutyRatio systemClockHz : F64) (s : State) :
    Host.Outcome State Fault Refusal :=
  perform (configureOp (f64Value frequencyHz) (f64Value dutyRatio) (f64Value systemClockHz)) s

end Sys2Proof.Machine
end

