-- ==== Sys2Proof/Machine/Control.lean ====
section
/-! DEFINITION. The PwmController operations but `configure` (spec/43_control_sequencing.md), each a fixed
sequence of RegisterView operations with a place for other agents between any two transactions (R41). -/

namespace Sys2Proof.Machine

/-! ## The operations -/

/-- `start(continuous)`: four single-bit read-modify-writes, the start bit last (R102). -/
def startOp (continuous : Bool) (s : State) : Bus Unit :=
  andThenGap (setBit .outputEnable s) fun _ s =>
  andThenGap (setBit .pwmEnable s) fun _ s =>
  andThenGap
    (match runModeOfBool continuous with
      | .continuous => setBit .continuousOnce s
      | .once => clearBit .continuousOnce s) fun _ s =>
  setBit .pwmStart s

/-- `stop()`: output enable, then the start bit (R104). -/
def stopOp (s : State) : Bus Unit :=
  andThenGap (clearBit .outputEnable s) fun _ s => clearBit .pwmStart s

/-- `reset_counter()`: set bit 7, then clear it, whatever `RESET_SELF_CLEAR` is (R106). -/
def resetCounterOp (s : State) : Bus Unit :=
  andThenGap (setBit .resetCounter s) fun _ s => clearBit .resetCounter s

/-- `select_clock_source(external)`: only while Stopped (R107). -/
def selectClockSourceOp (external : Bool) (s : State) : Bus Result :=
  andThen (testBit .pwmStart s) fun running s =>
    if running then raiseError .mustBeStoppedFirst s
    else
      andThen (gap s) fun _ s =>
      andThen
        (match clockSourceOfBool external with
          | .external => setBit .clockSelect s
          | .internal => clearBit .clockSelect s) fun _ s =>
      returnValue .unit s

/-- `acknowledge_interrupt()`: the value read, written back (R110). -/
def acknowledgeInterruptOp (s : State) : Bus Unit := modifyControl (fun c => c) s

/-! ## The meanings -/

/-- `start(continuous)` (R102). -/
def execStart (continuous : Bool) (s : State) : Host.Outcome State Fault Refusal :=
  performOk (fun _ => .unit) (startOp continuous) s

/-- `stop()` (R104). -/
def execStop (s : State) : Host.Outcome State Fault Refusal :=
  performOk (fun _ => .unit) stopOp s

/-- `reset_counter()` (R106). -/
def execResetCounter (s : State) : Host.Outcome State Fault Refusal :=
  performOk (fun _ => .unit) resetCounterOp s

/-- `select_clock_source(external)` (R107). -/
def execSelectClockSource (external : Bool) (s : State) : Host.Outcome State Fault Refusal :=
  perform (selectClockSourceOp external) s

/-- `interrupt_occurred()`: `test_bit(5)` (R109). -/
def execInterruptOccurred (s : State) : Host.Outcome State Fault Refusal :=
  performOk .bool (testBit .interrupt) s

/-- `acknowledge_interrupt()` (R110). -/
def execAcknowledgeInterrupt (s : State) : Host.Outcome State Fault Refusal :=
  performOk (fun _ => .unit) acknowledgeInterruptOp s

/-- `new(base, tol)`: stores `BASE` and `TOL` and issues no transaction (R101). A base that R35 or R38 does
not admit, or a negative tolerance, is outside the premises of every rule and is refused by name (DESIGN CHOICE,
notes/assumptions/10.md, 16.md). -/
def execNew (base : Address) (tol : Rat) (s : State) : Host.Outcome State Fault Refusal :=
  if baseAdmitted base && tolAdmitted tol then
    perform (fun s => returnValue .controller { s with base := base, tol := tol }) s
  else .refused .constructorArgumentNotAdmitted

end Sys2Proof.Machine
end

