-- ==== Sys2Proof/Machine/Events.lean ====
section
/-! DEFINITION. Format EVENT: the hardware's own steps (spec/44_hardware_events.md R115 to R118). An event
returns nothing to any caller, so the result of the latest operation stays. Where the event is not enabled
it does not occur and the registers stay (DESIGN CHOICE, notes/assumptions/11.md). -/

namespace Sys2Proof.Machine

/-- `HwCycleComplete` (R116). -/
def execHwCycleComplete (s : State) : Host.Outcome State Fault Refusal :=
  .next (hwEvent .cycleComplete { s with trace := [] })

/-- `HwResetAutoClear` (R118). -/
def execHwResetAutoClear (s : State) : Host.Outcome State Fault Refusal :=
  .next (hwEvent .resetAutoClear { s with trace := [] })

end Sys2Proof.Machine
end

