-- ==== Sys2Proof/Machine/Dispatch.lean ====
section
/-! DEFINITION. One arm per operation, each one direct call of its meaning. -/

namespace Sys2Proof.Machine

def exec (i : Instr) (s : State) : Host.Outcome State Fault Refusal :=
  match i with
  | .read16Period => Sys2Proof.Machine.execRead16Period s
  | .write16Period v => Sys2Proof.Machine.execWrite16Period v s
  | .read16Duty => Sys2Proof.Machine.execRead16Duty s
  | .write16Duty v => Sys2Proof.Machine.execWrite16Duty v s
  | .read8Control => Sys2Proof.Machine.execRead8Control s
  | .write8Control v => Sys2Proof.Machine.execWrite8Control v s
  | .read16Clock => Sys2Proof.Machine.execRead16Clock s
  | .write16Clock v => Sys2Proof.Machine.execWrite16Clock v s
  | .readPeriod => Sys2Proof.Machine.execReadPeriod s
  | .writePeriod v => Sys2Proof.Machine.execWritePeriod v s
  | .readDuty => Sys2Proof.Machine.execReadDuty s
  | .writeDuty v => Sys2Proof.Machine.execWriteDuty v s
  | .readClock => Sys2Proof.Machine.execReadClock s
  | .writeClock v => Sys2Proof.Machine.execWriteClock v s
  | .readControl => Sys2Proof.Machine.execReadControl s
  | .writeControl v => Sys2Proof.Machine.execWriteControl v s
  | .setBit b => Sys2Proof.Machine.execSetBit b s
  | .clearBit b => Sys2Proof.Machine.execClearBit b s
  | .testBit b => Sys2Proof.Machine.execTestBit b s
  | .configure f r c => Sys2Proof.Machine.execConfigure f r c s
  | .start c => Sys2Proof.Machine.execStart c s
  | .stop => Sys2Proof.Machine.execStop s
  | .resetCounter => Sys2Proof.Machine.execResetCounter s
  | .selectClockSource e => Sys2Proof.Machine.execSelectClockSource e s
  | .interruptOccurred => Sys2Proof.Machine.execInterruptOccurred s
  | .acknowledgeInterrupt => Sys2Proof.Machine.execAcknowledgeInterrupt s
  | .new base tol => Sys2Proof.Machine.execNew base tol s
  | .hwCycleComplete => Sys2Proof.Machine.execHwCycleComplete s
  | .hwResetAutoClear => Sys2Proof.Machine.execHwResetAutoClear s

end Sys2Proof.Machine
end

