-- ==== Sys2Proof/Machine/Fetch.lean ====
section
/-! DEFINITION. Taking the next operation from the stream the agents present (spec/20_memory.md R44: all
transactions and events form one total order). The block fetches no program (R12, R49): the stream stands for
the callers and the hardware agent of R10 (notes/assumptions/4.md). -/

namespace Sys2Proof.Machine

/-- What stands at the front of the stream. -/
inductive Fetched where
  /-- Nothing is presented: no agent takes a step that changes the block. -/
  | idle
  /-- An operation, and the state with its bytes taken off the stream. -/
  | run (i : Instr) (s : State)
  /-- Bytes that present no operation, and how the step ends. -/
  | stop (o : Host.Outcome State Fault Refusal)

/-- How a step ends on bytes that present no operation. A bus transaction that is not admitted is
`RegisterAccessFault` and changes no register (R37, R60 b); the others
name no operation or no operand (R60 c, d; DESIGN CHOICE, notes/assumptions/15.md). -/
def stopFor (e : DecodeError) (s : State) : Host.Outcome State Fault Refusal :=
  match e with
  | .incomplete => .refused .incompleteOperation
  | .notAdmitted _ size16 offset =>
    .fault (accessFault .own (effectiveAddress offset s) (if size16 then 2 else 1) { s with trace := [] })
  | .invalidSelector selector => .refused (.invalidSelector selector)
  | .badBitIndex n => .refused (.bitIndexRefused n)
  | .badBool _ => .refused .operandNotAValue
  | .badTolForm _ => .refused .operandNotAValue
  | .zeroDenominator => .refused .operandNotAValue

/-- The front of the stream. -/
def fetch (s : State) : Fetched :=
  match s.inbox with
  | [] => .idle
  | _ :: _ =>
    match decode s.inbox with
    | .ok (i, rest) => .run i { s with inbox := rest }
    | .error e => .stop (stopFor e s)

/-- A step with nothing presented leaves the registers as they are (R140: they keep their values until the
next write or event). -/
def idleStep (s : State) : Host.Outcome State Fault Refusal := .next s

end Sys2Proof.Machine
end

