-- ==== Sys2Proof/Machine/Step.lean ====
section
/-! DEFINITION. One step: the operation at the front of the stream, as a whole. -/

namespace Sys2Proof.Machine

/-- One step of the machine. -/
def step (s : State) : Host.Outcome State Fault Refusal :=
  match fetch s with
  | .idle => idleStep s
  | .run i t => exec i t
  | .stop o => o

/-- `s` with the instruction of a word of spec/opcode_table.json as the next one presented. -/
def State.withFetchWord (s : State) (nbits w : Nat) : State :=
  { s with inbox := tableBytes nbits w }

end Sys2Proof.Machine
end

