-- ==== Sys2Proof/Machine/Derived.lean ====
section
/-! DEFINITION. Quantities read off the state, on which no step depends: the cross-field invariant
(spec/10_state.md R26), the output formulas (spec/44_hardware_events.md R120 to R122), the interrupt request
(spec/60_exceptions.md R132), the numbering of errors (R123) and the window as bytes (spec/20_memory.md R34, R39). -/

namespace Sys2Proof.Machine

/-- `FieldsValid(prescaler, period, duty)` of R26. -/
def fieldsValid (prescaler period duty : Nat) : Bool :=
  decide (1 ≤ prescaler ∧ prescaler ≤ 65535 ∧ 1 ≤ period ∧ period ≤ 65535 ∧ duty ≤ period)

/-- `FieldsValid` of the registers as they stand. -/
def registersValid (s : State) : Bool := fieldsValid s.clock.toNat s.period.toNat s.duty.toNat

/-! The four formulas are read off PERIOD, DUTY and CLOCK alone. They answer in every state of CONTROL, in timer
mode and while Stopped too, after a write of CLOCK_SELECT while running (U4), in the cycle in which another
register was written (U16) or the counter was reset (R119, N6), and while RESET_COUNTER is 1 and holds the counter
in reset (R146), where the spec makes no claim about the waveform. For a clock frequency `S` of 0, a clock that
does not tick (R116), the cycle time and the on-time have no value, as 1 / F_out has none; for `S` below 0 only the
duty cycle has one (DESIGN CHOICE, notes/assumptions/19.md). -/

/-- `F_out(S, CLOCK, PERIOD)` of R120; no value where CLOCK or PERIOD is 0, nor for `S` below 0. -/
def outputFrequency (S : Rat) (s : State) : Option Rat :=
  if S < 0 ∨ s.clock = 0 ∨ s.period = 0 then none
  else some (S / (2 * (s.clock.toNat : Rat) * (s.period.toNat : Rat)))

/-- `T_cycle = 2 * CLOCK * PERIOD / S` of R120; no value where CLOCK or PERIOD is 0, nor for `S` not
above 0. -/
def cycleTime (S : Rat) (s : State) : Option Rat :=
  if S ≤ 0 ∨ s.clock = 0 ∨ s.period = 0 then none
  else some (2 * (s.clock.toNat : Rat) * (s.period.toNat : Rat) / S)

/-- `T_on = DUTY * 2 * CLOCK / S` of R121; unspecified where DUTY exceeds PERIOD, no value where CLOCK or
PERIOD is 0, nor for `S` not above 0. -/
def onTime (S : Rat) (s : State) : Option Rat :=
  if S ≤ 0 ∨ s.clock = 0 ∨ s.period = 0 ∨ s.period.toNat < s.duty.toNat then none
  else some ((s.duty.toNat : Rat) * 2 * (s.clock.toNat : Rat) / S)

/-- The duty cycle `DUTY / PERIOD` of R121, for DUTY at most PERIOD; whatever CLOCK is, so with CLOCK = 0 too, where
U1 makes no claim about the waveform (DESIGN CHOICE, notes/assumptions/19.md). -/
def dutyCycle (s : State) : Option Rat :=
  if s.period = 0 ∨ s.period.toNat < s.duty.toNat then none
  else some ((s.duty.toNat : Rat) / (s.period.toNat : Rat))

/-- The output is driven only while `PWM_OUTPUT_ENABLE` is 1 (R122). That it IS driven whenever the bit is 1 is
the model's reading of points the spec leaves open: in timer mode and while Stopped (N6, N8, U13), while running
with CLOCK = 0, PERIOD = 0 or DUTY > PERIOD (U1 to U3), after a write while running of CLOCK_SELECT or of
PERIOD, DUTY, CLOCK or the mode (U4, U16), while RESET_COUNTER holds the counter in reset (R146), in a cycle in
which the counter was reset (R119, N6), and with an external clock that does not tick (R116, N9; DESIGN CHOICE,
notes/assumptions/18.md). -/
def outputDriven (s : State) : Bool := flag .outputEnable s.control

/-- A running channel in one of the degenerate configurations of R113 that the registers show: output
disabled, DUTY = 0, or DUTY = PERIOD (output never low). Legal, never rejected (R25, R130). The fourth of
R113, `start` before any `configure`, is a matter of the operations and not of the registers
(`Safety.startsUnconfigured`). -/
def degenerate (s : State) : Bool :=
  flag .pwmStart s.control && (!outputDriven s || s.duty == 0 || s.duty == s.period)

/-- The block's interrupt request: the level of CONTROL bit 5 (R132). -/
def interruptRequest (s : State) : Bool := flag .interrupt s.control

/-- The numbers of the three `ConfigError` kinds (R123). -/
def configErrorCode : ConfigError → Nat
  | .frequencyUnachievable => 1
  | .invalidDutyRatio => 2
  | .mustBeStoppedFirst => 3

/-- The number of `RegisterAccessFault` (R123). -/
def faultCode : Fault → Nat
  | .registerAccessFault _ => 4

/-- The byte of the window at an offset, for a byte layout: low byte at the lower address (R39, general
knowledge, unobservable through admitted accesses; PRESUMED,
notes/assumptions/13.md); `none` where no register stands (R34). -/
def windowByte (s : State) (offset : Nat) : Option Byte :=
  match offset with
  | 0x00 => some (s.period.extractLsb' 0 8)
  | 0x01 => some (s.period.extractLsb' 8 8)
  | 0x04 => some (s.duty.extractLsb' 0 8)
  | 0x05 => some (s.duty.extractLsb' 8 8)
  | 0x08 => some s.control
  | 0x0C => some (s.clock.extractLsb' 0 8)
  | 0x0D => some (s.clock.extractLsb' 8 8)
  | _ => none

end Sys2Proof.Machine
end

