-- ==== Sys2Proof/Safety.lean ====
section
/-! DEFINITION. What counts as a safe run, in the terms the statements use: the transactions an operation
issues, which operations are raw, the invariants of the controller, and runs with the fairness premise. -/

namespace Sys2Proof.Safety

open Sys2Proof.Machine

/-! ## The transactions of an operation -/

/-- What the hardware sees of a transaction: direction, width, offset (spec/30_encoding.md R52, R53). -/
structure BusShape where
  write : Bool
  size16 : Bool
  offset : Nat
  deriving DecidableEq, Repr

/-- `read8(0x08)`. -/
def r8 : BusShape := { write := false, size16 := false, offset := 0x08 }

/-- `write8(0x08, ·)`. -/
def w8 : BusShape := { write := true, size16 := false, offset := 0x08 }

/-- `read16(off)`. -/
def r16 (offset : Nat) : BusShape := { write := false, size16 := true, offset := offset }

/-- `write16(off, ·)`. -/
def w16 (offset : Nat) : BusShape := { write := true, size16 := true, offset := offset }

/-- The operation's own transaction behind an entry of the record, if it is one. -/
def entryShape : Entry → Option BusShape
  | .read16 .own offset _ => some (r16 offset)
  | .write16 .own offset _ => some (w16 offset)
  | .read8 .own offset _ => some { r8 with offset := offset }
  | .write8 .own offset _ => some { w8 with offset := offset }
  | .read16 .other _ _ => none
  | .write16 .other _ _ => none
  | .read8 .other _ _ => none
  | .write8 .other _ _ => none
  | .faulted _ _ _ => none
  | .event _ => none

/-- The operation's own transactions in a record, in order. -/
def ownShapes (trace : List Entry) : List BusShape := trace.filterMap entryShape

/-- The expansion table of R61: the transactions of each operation, given how it ended. -/
def expansion (i : Instr) (r : Result) : List BusShape :=
  match i with
  | .read16Period => [r16 0x00]
  | .write16Period _ => [w16 0x00]
  | .read16Duty => [r16 0x04]
  | .write16Duty _ => [w16 0x04]
  | .read8Control => [r8]
  | .write8Control _ => [w8]
  | .read16Clock => [r16 0x0C]
  | .write16Clock _ => [w16 0x0C]
  | .readPeriod => [r16 0x00]
  | .writePeriod _ => [w16 0x00]
  | .readDuty => [r16 0x04]
  | .writeDuty _ => [w16 0x04]
  | .readClock => [r16 0x0C]
  | .writeClock _ => [w16 0x0C]
  | .readControl => [r8]
  | .writeControl _ => [w8]
  | .setBit _ => [r8, w8]
  | .clearBit _ => [r8, w8]
  | .testBit _ => [r8]
  | .configure _ _ _ =>
    match r with
    | .none => []
    | .ok _ => [r8, w16 0x00, w16 0x04, w16 0x0C]
    | .err .mustBeStoppedFirst => [r8]
    | .err .invalidDutyRatio => []
    | .err .frequencyUnachievable => []
  | .start _ => [r8, w8, r8, w8, r8, w8, r8, w8]
  | .stop => [r8, w8, r8, w8]
  | .resetCounter => [r8, w8, r8, w8]
  | .selectClockSource _ =>
    match r with
    | .none => []
    | .ok _ => [r8, r8, w8]
    | .err _ => [r8]
  | .interruptOccurred => [r8]
  | .acknowledgeInterrupt => [r8, w8]
  | .new _ _ => []
  | .hwCycleComplete => []
  | .hwResetAutoClear => []

/-- A record entry that writes 1 to CONTROL bit 5, whoever issues it. -/
def acknowledges : Entry → Bool
  | .write8 _ _ v => flag .interrupt v
  | .read16 _ _ _ => false
  | .write16 _ _ _ => false
  | .read8 _ _ _ => false
  | .faulted _ _ _ => false
  | .event _ => false

/-! ## Kinds of operations -/

/-- A raw write: a mutator below the controller, which keeps none of its invariants
(spec/41_registerview.md R72, spec/90_conflicts.md C8). -/
def rawWrite : Instr → Bool
  | .write16Period _ | .write16Duty _ | .write8Control _ | .write16Clock _ => true
  | .writePeriod _ | .writeDuty _ | .writeClock _ | .writeControl _ => true
  | .setBit _ | .clearBit _ => true
  | .read16Period | .read16Duty | .read8Control | .read16Clock => false
  | .readPeriod | .readDuty | .readClock | .readControl | .testBit _ => false
  | .configure _ _ _ | .start _ | .stop | .resetCounter | .selectClockSource _ => false
  | .interruptOccurred | .acknowledgeInterrupt | .new _ _ => false
  | .hwCycleComplete | .hwResetAutoClear => false

/-- An operation that writes no register: a poll or an event of the hardware. -/
def pollOrEvent : Instr → Bool
  | .read16Period | .read16Duty | .read8Control | .read16Clock => true
  | .readPeriod | .readDuty | .readClock | .readControl | .testBit _ => true
  | .interruptOccurred | .hwCycleComplete | .hwResetAutoClear => true
  | .write16Period _ | .write16Duty _ | .write8Control _ | .write16Clock _ => false
  | .writePeriod _ | .writeDuty _ | .writeClock _ | .writeControl _ => false
  | .setBit _ | .clearBit _ => false
  | .configure _ _ _ | .start _ | .stop | .resetCounter | .selectClockSource _ => false
  | .acknowledgeInterrupt | .new _ _ => false

/-- A write of the whole of CONTROL, which no rule asks to preserve the reserved bit (R80, R142). -/
def blindControlWrite : Instr → Bool
  | .write8Control _ | .writeControl _ => true
  | .write16Period _ | .write16Duty _ | .write16Clock _ => false
  | .writePeriod _ | .writeDuty _ | .writeClock _ | .setBit _ | .clearBit _ => false
  | .read16Period | .read16Duty | .read8Control | .read16Clock => false
  | .readPeriod | .readDuty | .readClock | .readControl | .testBit _ => false
  | .configure _ _ _ | .start _ | .stop | .resetCounter | .selectClockSource _ => false
  | .interruptOccurred | .acknowledgeInterrupt | .new _ _ => false
  | .hwCycleComplete | .hwResetAutoClear => false

/-- An operation that cannot put the channel into continuous mode (R21): none of its own writes sets
CONTINUOUS_ONCE where it reads 0. -/
def keepsOnceMode : Instr → Bool
  | .start continuous => !continuous
  | .setBit i => i != .continuousOnce
  | .write8Control _ | .writeControl _ => false
  | .write16Period _ | .write16Duty _ | .write16Clock _ => true
  | .writePeriod _ | .writeDuty _ | .writeClock _ | .clearBit _ => true
  | .read16Period | .read16Duty | .read8Control | .read16Clock => true
  | .readPeriod | .readDuty | .readClock | .readControl | .testBit _ => true
  | .configure _ _ _ | .stop | .resetCounter | .selectClockSource _ => true
  | .interruptOccurred | .acknowledgeInterrupt | .new _ _ => true
  | .hwCycleComplete | .hwResetAutoClear => true

/-! ## Invariants -/

/-- The controller's own fields are ones `new` admits (R35, R38, R101). -/
def controllerFieldsAdmitted (s : State) : Bool := baseAdmitted s.base && tolAdmitted s.tol

/-- What the controller keeps (R26, R146): the registers hold a valid triple, and the momentary bit is 0
between operations. -/
def controllerInvariant (s : State) : Bool :=
  registersValid s && !flag .resetCounter s.control

/-- The fourth degenerate configuration of R113: the n-th operation is `start`, and no `configure` came
before it. No operation rejects it (`startOp` checks nothing). -/
def startsUnconfigured (op : Nat → Instr) (n : Nat) : Prop :=
  (∃ c, op n = .start c) ∧ ∀ m, m < n → ∀ f r k, op m ≠ .configure f r k

/-! ## What a record says of the registers -/

/-- Who issued the transaction of an entry, at which offset, and of how many bytes. -/
def entryAccess : Entry → Option (Issuer × Nat × Nat)
  | .read16 who offset _ => some (who, offset, 2)
  | .write16 who offset _ => some (who, offset, 2)
  | .read8 who offset _ => some (who, offset, 1)
  | .write8 who offset _ => some (who, offset, 1)
  | .faulted _ _ _ => none
  | .event _ => none

/-- How many transactions a record holds, whoever issued them. -/
def accessCount (trace : List Entry) : Nat := (trace.filterMap entryAccess).length

/-- A transaction that ended in `RegisterAccessFault`. -/
def isFaulted : Entry → Bool
  | .faulted _ _ _ => true
  | .read16 _ _ _ => false
  | .write16 _ _ _ => false
  | .read8 _ _ _ => false
  | .write8 _ _ _ => false
  | .event _ => false

/-- The four registers of R11. -/
structure Registers where
  period : U16
  duty : U16
  control : U8
  clock : U16
  deriving DecidableEq, Repr

/-- The registers of a state. -/
def registersOf (s : State) : Registers :=
  { period := s.period, duty := s.duty, control := s.control, clock := s.clock }

/-- CONTROL after one entry (R63, R116, R118). -/
def controlAfter (c : U8) : Entry → U8
  | .write8 _ _ v => controlWrite c v
  | .event e => eventEffect c e
  | .read16 _ _ _ => c
  | .write16 _ _ _ => c
  | .read8 _ _ _ => c
  | .faulted _ _ _ => c

/-- The registers after one entry. -/
def afterEntry (r : Registers) (e : Entry) : Registers :=
  match e with
  | .write16 _ offset v =>
    match windowRegister offset 2 with
    | some (.wide .period) => { r with period := v }
    | some (.wide .duty) => { r with duty := v }
    | some (.wide .clock) => { r with clock := v }
    | some .control => r
    | none => r
  | .write8 _ _ _ => { r with control := controlAfter r.control e }
  | .event _ => { r with control := controlAfter r.control e }
  | .read16 _ _ _ => r
  | .read8 _ _ _ => r
  | .faulted _ _ _ => r

/-- The registers after a record, entry by entry. -/
def replay (r : Registers) (trace : List Entry) : Registers := trace.foldl afterEntry r

/-- CONTROL at every point of the total order within a record: before its first entry and after each. -/
def controlsDuring (c : U8) : List Entry → List U8
  | [] => [c]
  | e :: rest => c :: controlsDuring (controlAfter c e) rest

/-! ## Runs -/

/-- An endless run in which `op n` is the operation taken in `st n`. What falls between the transactions of
each operation, and which of them fault, is chosen anew at every operation (R115, R51). -/
def IsRun (st : Nat → State) (op : Nat → Instr) : Prop :=
  ∀ n, ∃ gaps busFaults,
    exec (op n) { st n with gaps := gaps, busFaults := busFaults } = .next (st (n + 1))

/-- CONTROL at every point of the total order during the n-th operation of a run. -/
def controlsOf (st : Nat → State) (n : Nat) : List U8 :=
  controlsDuring (st n).control (st (n + 1)).trace

/-- The fairness premise `CLOCK_TICKS`, weak fairness of `HwCycleComplete` (R117): if from some operation
on the event stays enabled at every point of the total order, inside operations too, it does occur from
there on, between operations or inside one. -/
def ClockTicks (st : Nat → State) : Prop :=
  ∀ n, (∀ m, n ≤ m → ∀ c ∈ controlsOf st m, flag .pwmStart c = true) →
    ∃ m, n ≤ m ∧ .event .cycleComplete ∈ (st (m + 1)).trace

end Sys2Proof.Safety
end

