-- ==== Sys2Proof/Certificates/Slice0/Obligations.lean ====
section
/-! DEFINITION. The statements for the provers, from the numbered rules of spec/ and the sections they stand
in. `s.gaps = []` says that nothing falls between the transactions of the operation; a statement without it
holds for every choice of what does (the field is the model's, log entry 8). `s.cfg.mapped = true` is the premise
`MAPPED`, `s.cfg.exclusiveMutators = true` the premise `EXCLUSIVE_MUTATORS` (R6). `result` and `trace` are the
model's own record of what the latest operation answered and issued (log entry 9). -/

open Sys2Proof Sys2Proof.Machine Sys2Proof.Safety

/-! ## Reset -/

/-- R32: the state after hardware reset, for every value of the parameters. -/
def Obligations.ResetLeavesOpenRegistersToParametersAndStartsStopped : Prop :=
  (∀ (v : ResetValues) (cfg : Config),
    (State.resetWith v cfg).period = v.period ∧
    (State.resetWith v cfg).duty = v.duty ∧
    (State.resetWith v cfg).clock = v.clock ∧
    flag .pwmStart (State.resetWith v cfg).control = false ∧
    flag .resetCounter (State.resetWith v cfg).control = false ∧
    flag .interrupt (State.resetWith v cfg).control = false ∧
    reservedBit (State.resetWith v cfg).control = reservedBit v.control ∧
    flag .outputEnable (State.resetWith v cfg).control = flag .outputEnable v.control ∧
    flag .continuousOnce (State.resetWith v cfg).control = flag .continuousOnce v.control ∧
    flag .pwmEnable (State.resetWith v cfg).control = flag .pwmEnable v.control ∧
    flag .clockSelect (State.resetWith v cfg).control = flag .clockSelect v.control) ∧
  (∀ cfg : Config, ∃ v : ResetValues, registersValid (State.resetWith v cfg) = false) ∧
  (∀ cfg : Config, ∃ v : ResetValues, registersValid (State.resetWith v cfg) = true)

/-- R140: no hardware event is enabled at reset and the request is low, so the registers keep their values
with nothing presented; the model's own reset is one value of the parameters (log entries 1, 2, 3). -/
def Obligations.NoEventIsEnabledAtResetAndTheMachineIdles : Prop :=
  (∀ (v : ResetValues) (cfg : Config) (e : HwEvent),
    eventEnabled cfg (State.resetWith v cfg).control e = false ∧
    interruptRequest (State.resetWith v cfg) = false ∧
    channelState (State.resetWith v cfg).control = .stopped ∧
    step (State.resetWith v cfg) = .next (State.resetWith v cfg)) ∧
  State.reset = State.resetWith ResetValues.chosen Config.chosen

/-! ## CONTROL -/

/-- R63: `ControlWrite`, bit by bit and as a formula; software never sets bit 5. -/
def Obligations.ControlWriteStoresEveryBitButClearsInterruptByOne : Prop :=
  ∀ c v : U8,
    (controlWrite c v).getLsbD 7 = v.getLsbD 7 ∧
    (controlWrite c v).getLsbD 6 = v.getLsbD 6 ∧
    (controlWrite c v).getLsbD 5 = (c.getLsbD 5 && !v.getLsbD 5) ∧
    (∀ k : Nat, k < 5 → (controlWrite c v).getLsbD k = v.getLsbD k) ∧
    controlWrite c v = (v &&& 0xDF) ||| (c &&& ~~~v &&& 0x20) ∧
    (c.getLsbD 5 = false → (controlWrite c v).getLsbD 5 = false)

/-- R27: the channel state is a function of CONTROL alone, by bits 2 and 3. -/
def Obligations.ChannelStateIsReadFromStartAndModeBits : Prop :=
  ∀ c : U8,
    (c.getLsbD 2 = false → channelState c = .stopped) ∧
    (c.getLsbD 2 = true → c.getLsbD 3 = true → channelState c = .running .continuous) ∧
    (c.getLsbD 2 = true → c.getLsbD 3 = false → channelState c = .running .once)

/-- R2, R59: packing and unpacking CONTROL are inverse, so no bit is lost and no combination is shut out. -/
def Obligations.ControlPackingAndUnpackingAreInverse : Prop :=
  (∀ c : U8, packControl (unpackControl c) = c) ∧
  (∀ f : ControlFields, unpackControl (packControl f) = f)

/-! ## The register window -/

/-- R34, R36: exactly four (offset, width) pairs reach a register, each its own. -/
def Obligations.WindowHoldsExactlyTheFourRegisters : Prop :=
  ∀ (offset n : Nat) (r : Reg),
    windowRegister offset n = some r ↔
      (offset = 0x00 ∧ n = 2 ∧ r = .wide .period) ∨ (offset = 0x04 ∧ n = 2 ∧ r = .wide .duty) ∨
      (offset = 0x08 ∧ n = 1 ∧ r = .control) ∨ (offset = 0x0C ∧ n = 2 ∧ r = .wide .clock)

/-- R37, R127: any other access, by any context, at any address and of any width, ends in
`RegisterAccessFault`; the faulted state differs from the state before only in the record, and names the access
(the record is the model's, log entry 9). -/
def Obligations.AccessOutsideTheEightFaultsAndChangesNoRegister : Prop :=
  ∀ (who : Issuer) (address n : Nat) (v : U16) (s : State),
    (address < s.base.toNat ∨
      (address - s.base.toNat, n) ∉ [(0x00, 2), (0x04, 2), (0x08, 1), (0x0C, 2)]) →
    memRead who address n s =
      .error (.registerAccessFault { s with trace := s.trace ++ [.faulted who address n] }) ∧
    memWrite who address n v s =
      .error (.registerAccessFault { s with trace := s.trace ++ [.faulted who address n] })

/-- R60 b: a selector of format BUS that is none of the eight stops the step in `RegisterAccessFault`, with
every register as it was; R60 d: an unlisted selector of another format names no operation. -/
def Obligations.UnlistedSelectorsFaultOrAreRefusedByName : Prop :=
  ∀ (sel : Byte) (rest : List Byte) (s : State), s.inbox = sel :: rest →
    (sel.toNat < 0x40 →
      sel.toNat ∉ [0x10, 0x30, 0x14, 0x34, 0x08, 0x28, 0x1C, 0x3C] →
      ∃ left : State, step s = .fault (.registerAccessFault left) ∧ left.period = s.period ∧
        left.duty = s.duty ∧ left.control = s.control ∧ left.clock = s.clock) ∧
    ((0x4A < sel.toNat ∧ sel.toNat < 0x80) ∨ (0x87 < sel.toNat ∧ sel.toNat < 0xC0) ∨
        0xC1 < sel.toNat →
      step s = .refused (.invalidSelector sel))

/-! ## Format BUS -/

/-- R64, R66, R68, R70: a bus read returns the register, all of it, and changes nothing: reading CONTROL
clears no bit. -/
def Obligations.BusReadsReturnTheRegisterAndChangeNothing : Prop :=
  ∀ (s : State) (rest : List Byte), s.cfg.mapped = true →
    decode (0x10 :: rest) = .ok (.read16Period, rest) ∧
    exec .read16Period s = .next { s with
      result := .ok (.u16 s.period), trace := [.read16 .own 0x00 s.period] } ∧
    decode (0x14 :: rest) = .ok (.read16Duty, rest) ∧
    exec .read16Duty s = .next { s with
      result := .ok (.u16 s.duty), trace := [.read16 .own 0x04 s.duty] } ∧
    decode (0x08 :: rest) = .ok (.read8Control, rest) ∧
    exec .read8Control s = .next { s with
      result := .ok (.u8 s.control), trace := [.read8 .own 0x08 s.control] } ∧
    decode (0x1C :: rest) = .ok (.read16Clock, rest) ∧
    exec .read16Clock s = .next { s with
      result := .ok (.u16 s.clock), trace := [.read16 .own 0x0C s.clock] }

/-- R65, R67, R71: the three 16-bit writes store any value, unchecked, and change nothing else. The bytes of
the operand are the model's (log entry 6). -/
def Obligations.WideBusWritesStoreTheValueAndNothingElse : Prop :=
  ∀ (s : State) (v : U16) (rest : List Byte), s.cfg.mapped = true →
    decode (0x30 :: (bytesU16 v ++ rest)) = .ok (.write16Period v, rest) ∧
    exec (.write16Period v) s = .next { s with
      period := v, result := .ok .unit, trace := [.write16 .own 0x00 v] } ∧
    decode (0x34 :: (bytesU16 v ++ rest)) = .ok (.write16Duty v, rest) ∧
    exec (.write16Duty v) s = .next { s with
      duty := v, result := .ok .unit, trace := [.write16 .own 0x04 v] } ∧
    decode (0x3C :: (bytesU16 v ++ rest)) = .ok (.write16Clock v, rest) ∧
    exec (.write16Clock v) s = .next { s with
      clock := v, result := .ok .unit, trace := [.write16 .own 0x0C v] }

/-- R69: writing CONTROL is `ControlWrite`; the channel is Running afterwards iff bit 2 was written 1, and
INTERRUPT is cleared iff bit 5 was written 1 (the operand byte is the model's, log entry 6). -/
def Obligations.ControlBusWriteIsControlWrite : Prop :=
  ∀ (s : State) (v : U8) (rest : List Byte), s.cfg.mapped = true →
    decode (0x28 :: v :: rest) = .ok (.write8Control v, rest) ∧
    exec (.write8Control v) s = .next { s with
      control := (v &&& 0xDF) ||| (s.control &&& ~~~v &&& 0x20),
      result := .ok .unit, trace := [.write8 .own 0x08 v] } ∧
    (channelState ((v &&& 0xDF) ||| (s.control &&& ~~~v &&& 0x20)) = .stopped ↔
      v.getLsbD 2 = false) ∧
    (((v &&& 0xDF) ||| (s.control &&& ~~~v &&& 0x20)).getLsbD 5 =
      (s.control.getLsbD 5 && !v.getLsbD 5))

/-! ## Format RV -/

/-- R73, R75, R77: the raw 16-bit getters. -/
def Obligations.RegisterViewWideReadsReturnTheRegister : Prop :=
  ∀ (s : State) (rest : List Byte), s.cfg.mapped = true →
    decode (0x40 :: rest) = .ok (.readPeriod, rest) ∧
    exec .readPeriod s = .next { s with
      result := .ok (.u16 s.period), trace := [.read16 .own 0x00 s.period] } ∧
    decode (0x42 :: rest) = .ok (.readDuty, rest) ∧
    exec .readDuty s = .next { s with
      result := .ok (.u16 s.duty), trace := [.read16 .own 0x04 s.duty] } ∧
    decode (0x44 :: rest) = .ok (.readClock, rest) ∧
    exec .readClock s = .next { s with
      result := .ok (.u16 s.clock), trace := [.read16 .own 0x0C s.clock] }

/-- R74, R76, R78: the raw 16-bit setters, unvalidated (the operand bytes are the model's, log entry 6). -/
def Obligations.RegisterViewWideWritesStoreWithoutValidation : Prop :=
  ∀ (s : State) (v : U16) (rest : List Byte), s.cfg.mapped = true →
    decode (0x41 :: (bytesU16 v ++ rest)) = .ok (.writePeriod v, rest) ∧
    exec (.writePeriod v) s = .next { s with
      period := v, result := .ok .unit, trace := [.write16 .own 0x00 v] } ∧
    decode (0x43 :: (bytesU16 v ++ rest)) = .ok (.writeDuty v, rest) ∧
    exec (.writeDuty v) s = .next { s with
      duty := v, result := .ok .unit, trace := [.write16 .own 0x04 v] } ∧
    decode (0x45 :: (bytesU16 v ++ rest)) = .ok (.writeClock v, rest) ∧
    exec (.writeClock v) s = .next { s with
      clock := v, result := .ok .unit, trace := [.write16 .own 0x0C v] }

/-- R79, R80: the raw CONTROL accessors (the operand byte is the model's, log entry 6). -/
def Obligations.RegisterViewControlAccessorsAreRaw : Prop :=
  ∀ (s : State) (v : U8) (rest : List Byte), s.cfg.mapped = true →
    decode (0x46 :: rest) = .ok (.readControl, rest) ∧
    exec .readControl s = .next { s with
      result := .ok (.u8 s.control), trace := [.read8 .own 0x08 s.control] } ∧
    decode (0x47 :: v :: rest) = .ok (.writeControl v, rest) ∧
    exec (.writeControl v) s = .next { s with
      control := (v &&& 0xDF) ||| (s.control &&& ~~~v &&& 0x20),
      result := .ok .unit, trace := [.write8 .own 0x08 v] }

/-- R82, R83, with no event between the two transactions: the words read and written, and the register
afterwards, for every `bit_index`, bit 5 included. -/
def Obligations.SetAndClearBitForceOneBitAndKeepTheRest : Prop :=
  ∀ (s : State) (i : BitIndex), s.cfg.mapped = true → s.gaps = [] →
    exec (.setBit i) s = .next { s with
      control := if i = .interrupt then s.control &&& 0xDF else s.control ||| (1#8 <<< i.toNat),
      result := .ok .unit,
      trace := [.read8 .own 0x08 s.control,
        .write8 .own 0x08 ((s.control &&& 0xDF) ||| (1#8 <<< i.toNat))] } ∧
    exec (.clearBit i) s = .next { s with
      control := if i = .interrupt then s.control else s.control &&& ~~~(1#8 <<< i.toNat),
      result := .ok .unit,
      trace := [.read8 .own 0x08 s.control,
        .write8 .own 0x08 (s.control &&& 0xDF &&& ~~~(1#8 <<< i.toNat))] }

/-- R84: `test_bit` reads once, writes nothing, and answers the bit (the operand byte is the model's, log
entry 6). -/
def Obligations.TestBitAnswersTheBitWithOneRead : Prop :=
  ∀ (s : State) (i : BitIndex) (rest : List Byte), s.cfg.mapped = true →
    decode (0x4A :: BitVec.ofNat 8 i.toNat :: rest) = .ok (.testBit i, rest) ∧
    exec (.testBit i) s = .next { s with
      result := .ok (.bool (decide ((s.control >>> i.toNat) &&& 1 = 1))),
      trace := [.read8 .own 0x08 s.control] }

/-- R81, R60 c: a `bit_index` of 6 or above 7 is refused for all three helpers; every other is
read (the operand byte is the model's, log entry 6). -/
def Obligations.BitIndexSixAndAboveSevenAreRefused : Prop :=
  ∀ (s : State) (sel b : Byte) (rest : List Byte),
    sel = 0x48 ∨ sel = 0x49 ∨ sel = 0x4A → s.inbox = sel :: b :: rest →
    ((b.toNat = 6 ∨ 7 < b.toNat) → step s = .refused (.bitIndexRefused b.toNat)) ∧
    (b.toNat < 6 ∨ b.toNat = 7 → ∃ i : BitIndex, i.toNat = b.toNat ∧
      step s = exec (if sel = 0x48 then .setBit i else if sel = 0x49 then .clearBit i
        else .testBit i) { s with inbox := rest })

/-! ## `configure` -/

/-- R86 (with the binary64 format of R57): a finite `f64` denotes its exact rational; the other patterns are
the infinities and the NaNs (PRESUMED, log entry 7). -/
def Obligations.FiniteF64DenotesItsExactRational : Prop :=
  ∀ x : F64,
    ((x.extractLsb' 52 11).toNat = 0 → f64Value x = .finite
      ((if x.getLsbD 63 then -1 else 1) * ((x.extractLsb' 0 52).toNat : ℚ) * (2 : ℚ) ^ (-1074 : ℤ))) ∧
    ((x.extractLsb' 52 11).toNat ≠ 0 → (x.extractLsb' 52 11).toNat ≠ 2047 → f64Value x = .finite
      ((if x.getLsbD 63 then -1 else 1) * (2 ^ 52 + ((x.extractLsb' 0 52).toNat : ℚ)) *
        (2 : ℚ) ^ (((x.extractLsb' 52 11).toNat : ℤ) - 1075))) ∧
    ((x.extractLsb' 52 11).toNat = 2047 → f64Value x =
      if x.extractLsb' 0 52 = 0 then (if x.getLsbD 63 then .negInf else .posInf) else .nan)

/-- R89: `round` is the nearest integer, and goes up at a tie. -/
def Obligations.RoundIsNearestWithTiesUpward : Prop :=
  ∀ x : ℚ, 0 ≤ x →
    ((roundHalfUp x : ℕ) : ℤ) = ⌊x + 1 / 2⌋ ∧
    |x - (roundHalfUp x : ℚ)| ≤ 1 / 2 ∧
    (∀ k : ℕ, x = (k : ℚ) + 1 / 2 → roundHalfUp x = k + 1)

/-- R91: the two forms of the error agree, the test of the search is the bound on it, and every fitting
candidate is off by at most half a period tick. -/
def Obligations.ErrorFormsAgreeAndRoundingErrorIsBounded : Prop :=
  ∀ (S f tol : ℚ) (p : ℕ), 0 < S → 0 < f → 1 ≤ p → fits (candidate (divisor S f) p) = true →
    |S / (2 * (p : ℚ) * (candidate (divisor S f) p : ℚ)) - f| / f =
      |divisor S f - (p : ℚ) * (candidate (divisor S f) p : ℚ)| /
        ((p : ℚ) * (candidate (divisor S f) p : ℚ)) ∧
    (withinTolerance (divisor S f) tol p (candidate (divisor S f) p) = true ↔
      |S / (2 * (p : ℚ) * (candidate (divisor S f) p : ℚ)) - f| / f ≤ tol) ∧
    |S / (2 * (p : ℚ) * (candidate (divisor S f) p : ℚ)) - f| / f ≤
      1 / (2 * (candidate (divisor S f) p : ℚ))

/-- R90, R92: the search returns a pair iff it is the candidate of the smallest prescaler that fits and is
within tolerance. -/
def Obligations.SearchReturnsTheSmallestAcceptedPrescaler : Prop :=
  ∀ (D tol : ℚ) (p P : ℕ),
    search D tol = some (p, P) ↔
      1 ≤ p ∧ p ≤ 65535 ∧ P = roundHalfUp (D / (p : ℚ)) ∧ 1 ≤ P ∧ P ≤ 65535 ∧
      |D - (p : ℚ) * (P : ℚ)| ≤ tol * (p : ℚ) * (P : ℚ) ∧
      ∀ q : ℕ, 1 ≤ q → q < p →
        ¬(1 ≤ roundHalfUp (D / (q : ℚ)) ∧ roundHalfUp (D / (q : ℚ)) ≤ 65535 ∧
          |D - (q : ℚ) * (roundHalfUp (D / (q : ℚ)) : ℚ)| ≤
            tol * (q : ℚ) * (roundHalfUp (D / (q : ℚ)) : ℚ))

/-- R92 facts 1 to 3 (the spec's own inferences): candidates do not increase; a first fitting prescaler above
1 has a period of at least 32768, so the search returns it whenever the tolerance is at least 2^-16; and no
divisor below 1/2 or from 65535 × 65535.5 upward has a factorization, whatever the tolerance. -/
def Obligations.SearchFactsOnCandidatesAndRange : Prop :=
  (∀ (D : ℚ) (p q : ℕ), 0 < D → 1 ≤ p → p ≤ q → candidate D q ≤ candidate D p) ∧
  (∀ (D tol : ℚ) (p : ℕ), 0 < D → 2 ≤ p → p ≤ 65535 → fits (candidate D p) = true →
    (∀ q : ℕ, 1 ≤ q → q < p → fits (candidate D q) = false) → 1 / 2 ^ 16 ≤ tol →
    32768 ≤ candidate D p ∧ search D tol = some (p, candidate D p)) ∧
  (∀ D tol : ℚ, 0 < D → D < 1 / 2 → search D tol = none) ∧
  (∀ D tol : ℚ, 65535 * (131071 / 2) ≤ D → search D tol = none)

/-- R94: the duty lies in 0..period and the clamp changes nothing. -/
def Obligations.DutyLiesWithinThePeriodAndTheClampIsIdle : Prop :=
  ∀ (r : ℚ) (P : ℕ), 0 ≤ r → r ≤ 1 →
    dutyFor r P = roundHalfUp (r * (P : ℚ)) ∧ dutyFor r P ≤ P

/-- R85, R96: with valid arguments on a Stopped channel, one read and the three writes in their order, each
register at the value computed, and nothing else changed. -/
def Obligations.ConfigureAppliesTheTripleOnAStoppedChannel : Prop :=
  ∀ (s : State) (f r c : F64) (qf qr qc : ℚ) (p P : ℕ),
    s.cfg.mapped = true → s.gaps = [] → flag .pwmStart s.control = false →
    f64Value f = .finite qf → f64Value r = .finite qr → f64Value c = .finite qc →
    0 ≤ qr → qr ≤ 1 → 0 < qf → 0 < qc → search (qc / (2 * qf)) s.tol = some (p, P) →
    exec (.configure f r c) s = .next { s with
      period := BitVec.ofNat 16 P, duty := BitVec.ofNat 16 (dutyFor qr P),
      clock := BitVec.ofNat 16 p, result := .ok .unit,
      trace := [.read8 .own 0x08 s.control, .write16 .own 0x00 (BitVec.ofNat 16 P),
        .write16 .own 0x04 (BitVec.ofNat 16 (dutyFor qr P)),
        .write16 .own 0x0C (BitVec.ofNat 16 p)] }

/-- R97: after a successful `configure`, whatever hardware events fell in between, the registers hold a valid
triple whose frequency is within tolerance of the request. -/
def Obligations.SuccessfulConfigureLeavesAValidTripleWithinTolerance : Prop :=
  ∀ (s t : State) (f r c : F64), s.cfg.exclusiveMutators = true →
    exec (.configure f r c) s = .next t → t.result = .ok .unit →
    ∃ qf qr qc : ℚ, f64Value f = .finite qf ∧ f64Value r = .finite qr ∧ f64Value c = .finite qc ∧
      1 ≤ t.clock.toNat ∧ 1 ≤ t.period.toNat ∧ t.duty.toNat ≤ t.period.toNat ∧
      search (qc / (2 * qf)) s.tol = some (t.clock.toNat, t.period.toNat) ∧
      t.duty.toNat = roundHalfUp (qr * (t.period.toNat : ℚ)) ∧
      |qc / (2 * (t.clock.toNat : ℚ) * (t.period.toNat : ℚ)) - qf| ≤ s.tol * qf

/-- R98, R129: an `Err` of `configure` leaves the four registers as they were and no write was issued,
whatever the premises and whatever the other agents would do. -/
def Obligations.FailedConfigureWritesNothing : Prop :=
  ∀ (s t : State) (f r c : F64) (k : ConfigError),
    exec (.configure f r c) s = .next t → t.result = .err k →
    t.period = s.period ∧ t.duty = s.duty ∧ t.control = s.control ∧ t.clock = s.clock ∧
    t.gaps = s.gaps ∧
    t.trace = (if k = .mustBeStoppedFirst then [.read8 .own 0x08 s.control] else [])

/-- R125: `InvalidDutyRatio` iff the ratio is not a number in [0, 1], whatever else; no register is read or
written. -/
def Obligations.InvalidDutyRatioIffRatioOutsideUnitInterval : Prop :=
  ∀ (s : State) (f r c : F64),
    ((∃ t : State, exec (.configure f r c) s = .next t ∧ t.result = .err .invalidDutyRatio) ↔
      ¬∃ q : ℚ, f64Value r = .finite q ∧ 0 ≤ q ∧ q ≤ 1) ∧
    ((¬∃ q : ℚ, f64Value r = .finite q ∧ 0 ≤ q ∧ q ≤ 1) →
      exec (.configure f r c) s = .next { s with result := .err .invalidDutyRatio, trace := [] })

/-- R124: `FrequencyUnachievable` iff the ratio is valid and a frequency is no positive finite number or the
search fails; no register is read or written. -/
def Obligations.FrequencyUnachievableIffDomainOrSearchFails : Prop :=
  ∀ (s : State) (f r c : F64),
    ((∃ t : State, exec (.configure f r c) s = .next t ∧
        t.result = .err .frequencyUnachievable) ↔
      (∃ q : ℚ, f64Value r = .finite q ∧ 0 ≤ q ∧ q ≤ 1) ∧
      ¬∃ qf qc : ℚ, f64Value f = .finite qf ∧ 0 < qf ∧ f64Value c = .finite qc ∧ 0 < qc ∧
        (search (qc / (2 * qf)) s.tol).isSome = true) ∧
    ((∃ t : State, exec (.configure f r c) s = .next t ∧
        t.result = .err .frequencyUnachievable) →
      exec (.configure f r c) s =
        .next { s with result := .err .frequencyUnachievable, trace := [] })

/-- R126: `MustBeStoppedFirst` iff the operation needs Stopped and PWM_START reads 1: `select_clock_source`
with either operand, and `configure` with valid arguments. CONTROL is read once, nothing is written. No other
operation returns an `Err` (an event returns nothing, so the result of the operation before it stands). -/
def Obligations.MustBeStoppedFirstIffStartReadsOne : Prop :=
  ∀ (s : State) (f r c : F64) (e : Bool), s.cfg.mapped = true →
    ((∃ t : State, exec (.selectClockSource e) s = .next t ∧
        t.result = .err .mustBeStoppedFirst) ↔ flag .pwmStart s.control = true) ∧
    ((∃ t : State, exec (.configure f r c) s = .next t ∧ t.result = .err .mustBeStoppedFirst) ↔
      flag .pwmStart s.control = true ∧
      ∃ qf qr qc : ℚ, f64Value f = .finite qf ∧ f64Value r = .finite qr ∧ f64Value c = .finite qc ∧
        0 ≤ qr ∧ qr ≤ 1 ∧ 0 < qf ∧ 0 < qc ∧ (search (qc / (2 * qf)) s.tol).isSome = true) ∧
    (∀ t : State, (exec (.selectClockSource e) s = .next t ∨ exec (.configure f r c) s = .next t) →
      t.result = .err .mustBeStoppedFirst →
      t = { s with result := .err .mustBeStoppedFirst, trace := [.read8 .own 0x08 s.control] }) ∧
    (∀ (i : Instr) (t : State) (k : ConfigError), i.format ≠ .event → exec i s = .next t →
      t.result = .err k → (∃ x, i = .selectClockSource x) ∨ ∃ x y z, i = .configure x y z)

/-- R51, R127, for every operation, `configure` among them, and whatever falls between its transactions.
(1) An operation that answers leaves the registers its record gives. (2) An operation ends in
`RegisterAccessFault` only without `MAPPED`; the failing transaction is the last thing that reached the block,
the registers hold what the entries before it wrote, and nothing else of the state has changed but choices used up.
(3) Every transaction of every operation can be the one that fails: whichever transaction of the run under
`MAPPED`, its own or another context's, the access primitive fails, the run is the same up to it and ends there.
Which transaction fails is the model's plain-data choice (log entry 12), the record is the model's (log entry 9). -/
def Obligations.AccessFaultEndsTheOperationAndKeepsEarlierWrites : Prop :=
  (∀ (i : Instr) (s t : State), exec i s = .next t →
    registersOf t = replay (registersOf s) t.trace ∧ t.trace.any isFaulted = false) ∧
  (∀ (i : Instr) (s left : State), exec i s = .fault (.registerAccessFault left) →
    s.cfg.mapped = false ∧
    ∃ (done : List Entry) (who : Issuer) (address n : Nat),
      left.trace = done ++ [.faulted who address n] ∧ done.any isFaulted = false ∧
      registersOf left = replay (registersOf s) done ∧
      s.busFaults = List.replicate (accessCount done) false ++ true :: left.busFaults ∧
      left.base = s.base ∧ left.tol = s.tol ∧ left.cfg = s.cfg ∧ left.inbox = s.inbox ∧
      left.result = s.result ∧ ∃ used : ℕ, left.gaps = s.gaps.drop used) ∧
  (∀ (i : Instr) (s t : State) (before after : List Entry) (e : Entry) (who : Issuer) (offset n : Nat)
      (later : List Bool),
    exec i { s with cfg := { s.cfg with mapped := true } } = .next t → t.trace = before ++ e :: after →
    entryAccess e = some (who, offset, n) →
    ∃ left : State,
      exec i { s with
        cfg := { s.cfg with mapped := false },
        busFaults := List.replicate (accessCount before) false ++ true :: later } =
          .fault (.registerAccessFault left) ∧
      left.trace = before ++ [.faulted who (s.base.toNat + offset) n] ∧ left.busFaults = later ∧
      registersOf left = replay (registersOf s) before)

/-! ## Control sequencing -/

/-- R102, with no event in between: the eight transactions of `start`, their data, and CONTROL after. -/
def Obligations.StartRunsItsFourHelpersInOrder : Prop :=
  ∀ (s : State) (continuous : Bool), s.cfg.mapped = true → s.gaps = [] →
    exec (.start continuous) s = .next { s with
      control := if continuous then s.control ||| 0x1E else (s.control &&& 0xF7) ||| 0x16,
      result := .ok .unit,
      trace :=
        [.read8 .own 0x08 s.control,
         .write8 .own 0x08 ((s.control &&& 0xDF) ||| 0x10),
         .read8 .own 0x08 (s.control ||| 0x10),
         .write8 .own 0x08 ((s.control &&& 0xDF) ||| 0x12),
         .read8 .own 0x08 (s.control ||| 0x12),
         .write8 .own 0x08
           (if continuous then (s.control &&& 0xDF) ||| 0x1A else (s.control &&& 0xD7) ||| 0x12),
         .read8 .own 0x08
           (if continuous then s.control ||| 0x1A else (s.control &&& 0xF7) ||| 0x12),
         .write8 .own 0x08
           (if continuous then (s.control &&& 0xDF) ||| 0x1E
            else (s.control &&& 0xD7) ||| 0x16)] }

/-- R104, with no event in between: the four transactions of `stop`, their data, and CONTROL after; PERIOD,
DUTY and CLOCK are not touched. -/
def Obligations.StopClearsOutputEnableThenStart : Prop :=
  ∀ s : State, s.cfg.mapped = true → s.gaps = [] →
    exec .stop s = .next { s with
      control := s.control &&& 0xEB,
      result := .ok .unit,
      trace :=
        [.read8 .own 0x08 s.control,
         .write8 .own 0x08 (s.control &&& 0xCF),
         .read8 .own 0x08 (s.control &&& 0xEF),
         .write8 .own 0x08 (s.control &&& 0xCB)] }

/-- R106, for both values of `RESET_SELF_CLEAR`: with no event in between, or with an auto-clear between the
two helpers, the end is the same; and bit 7 is 0 at the end whatever the hardware does in between. -/
def Obligations.ResetCounterPulsesBitSevenUnderBothPolicies : Prop :=
  (∀ s : State, s.cfg.mapped = true → s.gaps = [] →
    exec .resetCounter s = .next { s with
      control := s.control &&& 0x7F,
      result := .ok .unit,
      trace :=
        [.read8 .own 0x08 s.control,
         .write8 .own 0x08 ((s.control &&& 0xDF) ||| 0x80),
         .read8 .own 0x08 (s.control ||| 0x80),
         .write8 .own 0x08 (s.control &&& 0x5F)] }) ∧
  (∀ s : State, s.cfg.mapped = true → s.cfg.resetSelfClear = true →
    s.gaps = [[], [.event .resetAutoClear]] →
    ∃ t : State, exec .resetCounter s = .next t ∧ t.control = s.control &&& 0x7F) ∧
  (∀ s t : State, exec .resetCounter s = .next t → flag .resetCounter t.control = false)

/-- R107: refused by `MustBeStoppedFirst` while PWM_START is 1, for either operand; otherwise bit 0 takes the
operand, with no event in between. -/
def Obligations.SelectClockSourceOnlyWhileStopped : Prop :=
  ∀ (s : State) (external : Bool), s.cfg.mapped = true → s.gaps = [] →
    (flag .pwmStart s.control = true →
      exec (.selectClockSource external) s = .next { s with
        result := .err .mustBeStoppedFirst, trace := [.read8 .own 0x08 s.control] }) ∧
    (flag .pwmStart s.control = false →
      exec (.selectClockSource external) s = .next { s with
        control := if external then s.control ||| 0x01 else s.control &&& 0xFE,
        result := .ok .unit,
        trace :=
          [.read8 .own 0x08 s.control, .read8 .own 0x08 s.control,
           .write8 .own 0x08
             (if external then (s.control &&& 0xDF) ||| 0x01 else s.control &&& 0xDE)] })

/-- R109: `interrupt_occurred` answers bit 5 with one read and clears nothing. -/
def Obligations.InterruptOccurredReadsBitFive : Prop :=
  ∀ (s : State) (rest : List Byte), s.cfg.mapped = true →
    decode (0x85 :: rest) = .ok (.interruptOccurred, rest) ∧
    exec .interruptOccurred s = .next { s with
      result := .ok (.bool (s.control.getLsbD 5)), trace := [.read8 .own 0x08 s.control] }

/-- R110, R111: with no event in between, `acknowledge_interrupt` clears bit 5 and only bit 5; a flag that
read 0 and is raised before the write is kept (corner case a); a flag that read 1 is 0 afterwards, so one write
acknowledges a second completion before it as well (corner case b). -/
def Obligations.AcknowledgeClearsOnlyTheInterruptItRead : Prop :=
  (∀ s : State, s.cfg.mapped = true → s.gaps = [] →
    exec .acknowledgeInterrupt s = .next { s with
      control := s.control &&& 0xDF, result := .ok .unit,
      trace := [.read8 .own 0x08 s.control, .write8 .own 0x08 s.control] }) ∧
  (∀ (s t : State), s.cfg.exclusiveMutators = true →
    exec .acknowledgeInterrupt s = .next t → flag .interrupt s.control = false →
    .event .cycleComplete ∈ t.trace → flag .interrupt t.control = true) ∧
  (∀ (s t : State), exec .acknowledgeInterrupt s = .next t → flag .interrupt s.control = true →
    flag .interrupt t.control = false)

/-- R101: construction stores `BASE` and `TOL` and issues no transaction; a base or a tolerance that is not
admitted is refused (R35, R38). The 64-bit width, the refusal, and that construction in a state other than a
reset state (over a running channel, say) does the same are the model's choices (log entries 5, 10 and 16). -/
def Obligations.ConstructionStoresBaseAndToleranceOnly : Prop :=
  ∀ (s : State) (base : Address) (tol : ℚ),
    (base.toNat % 4 = 0 → base.toNat + 0x0F < 2 ^ 64 → 0 ≤ tol →
      exec (.new base tol) s = .next { s with
        base := base, tol := tol, result := .ok .controller, trace := [] }) ∧
    (base.toNat % 4 ≠ 0 ∨ 2 ^ 64 ≤ base.toNat + 0x0F ∨ tol < 0 →
      exec (.new base tol) s = .refused .constructorArgumentNotAdmitted)

/-! ## The hardware's events -/

/-- R116: an enabled cycle completion raises INTERRUPT and, in once mode only, clears PWM_START; nothing else
changes, and no other bit decides whether it is enabled. -/
def Obligations.CycleCompletionRaisesInterruptAndStopsOnceMode : Prop :=
  ∀ s : State,
    (eventEnabled s.cfg s.control .cycleComplete = true ↔ s.control.getLsbD 2 = true) ∧
    (s.control.getLsbD 2 = true →
      exec .hwCycleComplete s = .next { s with
        control := if s.control.getLsbD 3 then s.control ||| 0x20
          else (s.control ||| 0x20) &&& 0xFB,
        trace := [.event .cycleComplete] })

/-- R118: an enabled auto-clear clears RESET_COUNTER and nothing else; it is enabled iff the parameter is true
and the bit is 1. -/
def Obligations.AutoClearClearsTheResetCounterBit : Prop :=
  ∀ s : State,
    (eventEnabled s.cfg s.control .resetAutoClear = true ↔
      s.cfg.resetSelfClear = true ∧ s.control.getLsbD 7 = true) ∧
    (s.cfg.resetSelfClear = true → s.control.getLsbD 7 = true →
      exec .hwResetAutoClear s = .next { s with
        control := s.control &&& 0x7F, trace := [.event .resetAutoClear] })

/-- An event that is not enabled changes nothing (the answer is the model's choice, log entry 11), and no
event ever changes anything but bits 7, 5 and 2 of CONTROL (R115). -/
def Obligations.DisabledEventsDoNotOccur : Prop :=
  (∀ s : State, s.control.getLsbD 2 = false →
    exec .hwCycleComplete s = .next { s with trace := [] }) ∧
  (∀ s : State, s.cfg.resetSelfClear = false ∨ s.control.getLsbD 7 = false →
    exec .hwResetAutoClear s = .next { s with trace := [] }) ∧
  (∀ (s : State) (e : HwEvent), (hwEvent e s).control &&& 0x5B = s.control &&& 0x5B)

/-! ## The machine as a whole -/

/-- R61, R51, R114: under `MAPPED` every operation on admitted operands completes, whatever falls between its
transactions; it issues exactly the transactions of the expansion table, at most eight; it uses one choice for
each place between two of them; parameters and stream are untouched. That a disabled event answers a next state,
that `new` does so in every state, and the choices that stand for what falls between transactions are the model's
choices (log entries 11, 16 and 8). -/
def Obligations.EveryOperationCompletesWithItsExpansion : Prop :=
  ∀ (i : Instr) (s : State), i.wellFormed = true → s.cfg.mapped = true →
    ∃ t : State, exec i s = .next t ∧
      ownShapes t.trace = expansion i t.result ∧
      (ownShapes t.trace).length ≤ 8 ∧
      t.gaps = s.gaps.drop ((ownShapes t.trace).length - 1) ∧
      t.cfg = s.cfg ∧ t.inbox = s.inbox ∧ t.busFaults = s.busFaults

/-- R131: INTERRUPT is set by a cycle completion and by nothing else, and cleared by a written 1 in bit 5 and
by nothing else; for every operation and every interleaving. -/
def Obligations.InterruptIsSetOnlyByCompletionAndClearedOnlyByOne : Prop :=
  ∀ (i : Instr) (s t : State), exec i s = .next t →
    (flag .interrupt s.control = false → flag .interrupt t.control = true →
      .event .cycleComplete ∈ t.trace) ∧
    (flag .interrupt s.control = true → flag .interrupt t.control = false →
      ∃ e ∈ t.trace, acknowledges e = true)

/-- R143 a: `start`, `stop`, `reset_counter`, `select_clock_source` and every single-bit helper but
`set_bit(5)` never lose an interrupt, neither one pending before nor one raised inside. -/
def Obligations.SequencingNeverLosesAnInterrupt : Prop :=
  ∀ (i : Instr) (s t : State), s.cfg.exclusiveMutators = true → exec i s = .next t →
    (∃ c, i = .start c) ∨ i = .stop ∨ i = .resetCounter ∨ (∃ e, i = .selectClockSource e) ∨
      (∃ b, b ≠ .interrupt ∧ i = .setBit b) ∨ (∃ b, i = .clearBit b) →
    flag .interrupt s.control = true ∨ .event .cycleComplete ∈ t.trace →
    flag .interrupt t.control = true

/-- R18, R142: only a blind write of the whole of CONTROL can change the reserved bit. -/
def Obligations.ReservedBitChangesOnlyByABlindWrite : Prop :=
  ∀ (i : Instr) (s t : State), s.cfg.exclusiveMutators = true → blindControlWrite i = false →
    exec i s = .next t → reservedBit t.control = reservedBit s.control

/-- R112: `start(mode)` ends Running(mode) and `stop` ends Stopped, from every state and whatever the hardware
does in between; output enable is 1 after the first and 0 after the second (that the output is driven after
`start` rests on log entry 18, that it is not after `stop` on R122). -/
def Obligations.StartEndsRunningAndStopEndsStopped : Prop :=
  ∀ (s t : State), s.cfg.exclusiveMutators = true →
    (∀ c : Bool, exec (.start c) s = .next t →
      channelState t.control = .running (if c then .continuous else .once) ∧
      outputDriven t = true ∧ flag .pwmEnable t.control = true) ∧
    (exec .stop s = .next t → channelState t.control = .stopped ∧ outputDriven t = false)

/-- R105, R108: no sequence of `start` and `stop`, with hardware events anywhere, changes PERIOD, DUTY, CLOCK
or the selected clock source. -/
def Obligations.StartStopSequencesKeepTheWaveformAndClockSource : Prop :=
  ∀ (n : ℕ) (st : ℕ → State) (op : ℕ → Instr),
    (st 0).cfg.exclusiveMutators = true →
    (∀ k < n, exec (op k) (st k) = .next (st (k + 1))) →
    (∀ k < n, op k = .stop ∨ op k = .hwCycleComplete ∨ op k = .hwResetAutoClear ∨
      ∃ c, op k = .start c) →
    (st n).period = (st 0).period ∧ (st n).duty = (st 0).duty ∧ (st n).clock = (st 0).clock ∧
    flag .clockSelect (st n).control = flag .clockSelect (st 0).control

/-- R103: a second `start` of the same mode, after any number of hardware events, ends with the same bits 6,
4, 3, 2, 1 and 0. -/
def Obligations.StartIsIdempotentUpToHardwareEvents : Prop :=
  ∀ (c : Bool) (s t u w : State) (events : List HwEvent), s.cfg.exclusiveMutators = true →
    exec (.start c) s = .next t → u = events.foldl (fun x e => hwEvent e x) t →
    exec (.start c) u = .next w → w.control &&& 0x5F = t.control &&& 0x5F

/-- The frame of the sequencing operations (R43, R62, R96, R102, R104, R106, R107, R109, R110) and of the single-bit
helpers (R81 to R84): no rule lets one of them touch PERIOD, DUTY, CLOCK (but `configure`) or the controller's
fields, and each changes no CONTROL bit but those its rule names and those the hardware may change meanwhile, bits
7, 5 and 2 (R115). -/
def Obligations.SequencingLeavesEverythingElseAlone : Prop :=
  ∀ (i : Instr) (s t : State) (mask : U8), s.cfg.exclusiveMutators = true → exec i s = .next t →
    ((∃ c, i = .start c) ∧ mask = 0x1A) ∨ (i = .stop ∧ mask = 0x10) ∨
      (i = .resetCounter ∧ mask = 0x00) ∨ ((∃ e, i = .selectClockSource e) ∧ mask = 0x01) ∨
      (i = .acknowledgeInterrupt ∧ mask = 0x00) ∨ (i = .interruptOccurred ∧ mask = 0x00) ∨
      (∃ b, (i = .setBit b ∨ i = .clearBit b) ∧ mask = 1#8 <<< b.toNat) ∨
      ((∃ f r c, i = .configure f r c) ∧ mask = 0x00) ∨ ((∃ b, i = .testBit b) ∧ mask = 0x00) →
    ((∀ f r c, i ≠ .configure f r c) →
      t.period = s.period ∧ t.duty = s.duty ∧ t.clock = s.clock) ∧
    t.base = s.base ∧ t.tol = s.tol ∧ t.cfg = s.cfg ∧ t.inbox = s.inbox ∧
    t.control &&& 0x5B &&& ~~~mask = s.control &&& 0x5B &&& ~~~mask

/-- R6, R29: no step changes a parameter, and only `new` changes `BASE` or `TOL`. -/
def Obligations.ParametersNeverChange : Prop :=
  (∀ s t : State, step s = .next t → t.cfg = s.cfg) ∧
  (∀ (i : Instr) (s t : State), exec i s = .next t → (∀ base tol, i ≠ .new base tol) →
    t.base = s.base ∧ t.tol = s.tol)

/-- R35, R38, R101: every step keeps the controller's fields admitted. -/
def Obligations.EveryStepKeepsTheControllerFieldsAdmitted : Prop :=
  ∀ s t : State, controllerFieldsAdmitted s = true → step s = .next t →
    controllerFieldsAdmitted t = true

/-- The controller's fields are admitted at reset (the values are the model's, log entry 2). -/
def Obligations.ResetHasAdmittedControllerFields : Prop :=
  controllerFieldsAdmitted State.reset = true

/-- R26, R97, R146: with no raw write, a valid triple stays valid and the momentary bit stays 0 between
operations, under every interleaving with the hardware. -/
def Obligations.ControllerOperationsKeepTheControllerInvariant : Prop :=
  ∀ (i : Instr) (s t : State), s.cfg.exclusiveMutators = true → rawWrite i = false →
    controllerInvariant s = true → exec i s = .next t → controllerInvariant t = true

/-- R117, with the fairness premise, in runs in which anything may fall inside every operation: (1) with
exclusive mutators, a channel in once mode that no operation puts into continuous mode is Stopped again and
again at some point of the total order, whatever the operations do (a completion inside one may be undone by
its end, R144); (2) a once-mode channel that software only polls is, from some operation on, seen Stopped with
INTERRUPT raised. The record the points are read from is the model's (log entry 9). -/
def Obligations.PolledOnceModeChannelEventuallyStops : Prop :=
  (∀ (st : ℕ → State) (op : ℕ → Instr), IsRun st op → ClockTicks st →
    (st 0).cfg.exclusiveMutators = true → flag .continuousOnce (st 0).control = false →
    (∀ n, keepsOnceMode (op n) = true) →
    ∀ n, ∃ m, n ≤ m ∧ ∃ c ∈ controlsOf st m, channelState c = .stopped) ∧
  (∀ (st : ℕ → State) (op : ℕ → Instr), IsRun st op → ClockTicks st →
    (∀ n, pollOrEvent (op n) = true) → channelState (st 0).control = .running .once →
    ∃ n, channelState (st n).control = .stopped ∧ flag .interrupt (st n).control = true)

/-- R144: a once-mode completion between the two transactions of `acknowledge_interrupt` is undone by the
write-back, whatever the flag read; the interrupt is kept iff the flag read 0 (R110 corner cases a and b). -/
def Obligations.OnceCompletionInsideAcknowledgeIsUndone : Prop :=
  ∀ s : State, s.cfg.mapped = true → s.gaps = [[.event .cycleComplete]] →
    channelState s.control = .running .once →
    ∃ t : State, exec .acknowledgeInterrupt s = .next t ∧
      channelState t.control = .running .once ∧
      flag .interrupt t.control = !flag .interrupt s.control ∧
      .event .cycleComplete ∈ t.trace

/-- R145: another context's read-modify-write inside an acknowledge is lost without the lock, and cannot fall
there with it. -/
def Obligations.UpdateInsideAcknowledgeIsLostOnlyWithoutTheLock : Prop :=
  ∀ s : State, s.cfg.mapped = true → s.control = 0x3E →
    s.gaps = [[.foreign .readControl, .foreign (.writeControl 0x0E)]] →
    ∃ t : State, exec .acknowledgeInterrupt s = .next t ∧ t.control = 0x1E ∧
      (.write8 .other 0x08 0x0E ∈ t.trace ↔ s.cfg.exclusiveMutators = false)

/-! ## Derived quantities -/

/-- R120, R121: the frequency, the cycle time, the on-time and the duty cycle by their formulas, that they agree,
and that they have no value for a prescaler or a period of 0, nor (on-time, duty cycle) for DUTY above PERIOD,
where the spec gives none (U1, U2, U3). That the formulas are read off the registers whatever CONTROL is and was,
and the duty cycle whatever CLOCK is, is the model's choice (log entry 19). -/
def Obligations.OutputFormulasAgree : Prop :=
  ∀ (S : ℚ) (s : State), 0 < S →
    (s.clock = 0 ∨ s.period = 0 →
      outputFrequency S s = none ∧ cycleTime S s = none ∧ onTime S s = none) ∧
    (s.period = 0 ∨ s.period.toNat < s.duty.toNat → dutyCycle s = none) ∧
    (s.period.toNat < s.duty.toNat → onTime S s = none) ∧
    (s.clock ≠ 0 → s.period ≠ 0 → ∃ F T : ℚ,
      outputFrequency S s = some F ∧ cycleTime S s = some T ∧ 0 < F ∧ T = 1 / F ∧
      F = S / (2 * (s.clock.toNat : ℚ) * (s.period.toNat : ℚ)) ∧
      (s.duty.toNat ≤ s.period.toNat → ∃ T_on d : ℚ,
        onTime S s = some T_on ∧ dutyCycle s = some d ∧
        T_on = (s.duty.toNat : ℚ) * 2 * (s.clock.toNat : ℚ) / S ∧
        d = (s.duty.toNat : ℚ) / (s.period.toNat : ℚ) ∧ T_on = d * T ∧ d ≤ 1))

/-! ## Decoding and stepping -/

/-- Decoding what the encoder writes gives the operation back, for every well-formed operation and whatever
follows it (R52 to R57; the operand bytes are the model's, log entry 6). -/
def Obligations.DecodingAnEncodedOperationGivesItBack : Prop :=
  ∀ (i : Instr) (rest : List Byte), i.wellFormed = true → decode (encode i ++ rest) = .ok (i, rest)

/-- R52 to R56: an operation is only ever read from its own selector, and no two rows share one. -/
def Obligations.SelectorsNameOneOperation : Prop :=
  ∀ (sel : Byte) (bytes rest : List Byte) (i : Instr),
    decode (sel :: bytes) = .ok (i, rest) →
    i.selector = sel ∧ Format.ofSelector sel = i.format ∧ rest.length ≤ bytes.length

/-- A step runs the operation decoded at the front of the stream, its bytes taken off; with nothing presented
the machine idles (log entry 4). -/
def Obligations.StepRunsTheDecodedOperation : Prop :=
  (∀ (s : State) (i : Instr) (rest : List Byte), decode s.inbox = .ok (i, rest) →
    step s = exec i { s with inbox := rest }) ∧
  (∀ s : State, s.inbox = [] → step s = .next s)

/-- A few selectors of spec/opcode_table.json with their operands, bit by bit (the places of the operands are
the model's, log entry 6). -/
def Obligations.SampleSelectorsDecode : Prop :=
  decodeTableWord 8 0b00010000 = some .read16Period ∧
  decodeTableWord 24 0x61A830 = some (.write16Period 0x61A8) ∧
  decodeTableWord 16 0x1628 = some (.write8Control 0x16) ∧
  decodeTableWord 16 0x0748 = some (.setBit .resetCounter) ∧
  decodeTableWord 16 0x0181 = some (.start true) ∧
  decodeTableWord 8 0b11000001 = some .hwResetAutoClear
end

