-- ==== Sys2Proof/Laws/Configure.lean ====
section
/-! SUPPORT. The parts of `configure` as facts about rationals, so that no proof unfolds their Bool forms. -/

namespace Sys2Proof.Machine

theorem accepts_iff {D tol : Rat} {p : Nat} :
    accepts D tol p = true ↔
      1 ≤ candidate D p ∧ candidate D p ≤ 65535 ∧
      |D - (p : Rat) * (candidate D p : Rat)| ≤ tol * (p : Rat) * (candidate D p : Rat) := by
  simp [accepts, fits, withinTolerance, and_assoc]

theorem roundHalfUp_eq_floor (x : Rat) : roundHalfUp x = ⌊x + 1 / 2⌋.toNat := by
  have h : mkRat 1 2 = (1 / 2 : Rat) := by norm_num [Rat.mkRat_eq_div]
  unfold roundHalfUp
  rw [h]
  rfl

theorem dutyRatioValue_eq_some {x : Num64} {q : Rat} :
    dutyRatioValue x = some q ↔ x = .finite q ∧ 0 ≤ q ∧ q ≤ 1 := by
  cases x with
  | finite r =>
    simp only [dutyRatioValue, Option.ite_none_right_eq_some, Option.some.injEq, Num64.finite.injEq]
    constructor
    · rintro ⟨⟨h1, h2⟩, rfl⟩; exact ⟨rfl, h1, h2⟩
    · rintro ⟨rfl, h1, h2⟩; exact ⟨⟨h1, h2⟩, rfl⟩
  | posInf => simp [dutyRatioValue]
  | negInf => simp [dutyRatioValue]
  | nan => simp [dutyRatioValue]

theorem positiveValue_eq_some {x : Num64} {q : Rat} :
    positiveValue x = some q ↔ x = .finite q ∧ 0 < q := by
  cases x with
  | finite r =>
    simp only [positiveValue, Option.ite_none_right_eq_some, Option.some.injEq, Num64.finite.injEq]
    constructor
    · rintro ⟨h1, rfl⟩; exact ⟨rfl, h1⟩
    · rintro ⟨rfl, h1⟩; exact ⟨h1, rfl⟩
  | posInf => simp [positiveValue]
  | negInf => simp [positiveValue]
  | nan => simp [positiveValue]

/-- The computation answers exactly when the arguments lie in the domain and the search succeeds. -/
theorem computeTriple_eq_ok {tol : Rat} {f r c : Num64} {x : Triple} :
    computeTriple tol f r c = .ok x ↔
      ∃ qr qf qc : Rat, dutyRatioValue r = some qr ∧ positiveValue f = some qf ∧
        positiveValue c = some qc ∧ search (divisor qc qf) tol = some (x.prescaler, x.period) ∧
        x.duty = dutyFor qr x.period := by
  unfold computeTriple
  cases hr : dutyRatioValue r with
  | none => simp
  | some qr =>
    cases hf : positiveValue f with
    | none => simp
    | some qf =>
      cases hc : positiveValue c with
      | none => simp
      | some qc =>
        cases hs : search (divisor qc qf) tol with
        | none => simp [hs]
        | some y =>
          obtain ⟨p, P⟩ := y
          obtain ⟨a, b, d⟩ := x
          simp only [hs, Except.ok.injEq, Triple.mk.injEq, Option.some.injEq]
          constructor
          · rintro ⟨rfl, rfl, rfl⟩; exact ⟨qr, qf, qc, rfl, rfl, rfl, by simp [hs], rfl⟩
          · rintro ⟨a', b', c', rfl, rfl, rfl, h1, h2⟩
            rw [hs] at h1
            simp only [Option.some.injEq, Prod.mk.injEq] at h1
            obtain ⟨rfl, rfl⟩ := h1
            exact ⟨rfl, rfl, h2.symm⟩

end Sys2Proof.Machine
end

