-- ==== Sys2Proof/Laws/Decode.lean ====
section
/-! SUPPORT. Each operand decoder reads back what its encoder wrote, whatever follows. -/

namespace Sys2Proof

@[simp] theorem takeU8_bytes (v : U8) (rest : List Byte) : takeU8 (v :: rest) = .ok (v, rest) := rfl

@[simp] theorem takeU16_bytes (v : U16) (rest : List Byte) :
    takeU16 (bytesU16 v ++ rest) = .ok (v, rest) := by
  have h : v.extractLsb' 8 8 ++ v.extractLsb' 0 8 = v := by
    ext i hi
    simp only [BitVec.getElem_append, BitVec.getElem_extractLsb']
    split <;> simp_all [BitVec.getLsbD_eq_getElem]
  simpa [takeU16, bytesU16] using h

@[simp] theorem takeU64_bytes (v : BitVec 64) (rest : List Byte) :
    takeU64 (bytesU64 v ++ rest) = .ok (v, rest) := by
  have h : v.extractLsb' 56 8 ++ v.extractLsb' 48 8 ++ v.extractLsb' 40 8 ++ v.extractLsb' 32 8 ++
      v.extractLsb' 24 8 ++ v.extractLsb' 16 8 ++ v.extractLsb' 8 8 ++ v.extractLsb' 0 8 = v := by
    ext i hi
    simp only [BitVec.getElem_append, BitVec.getElem_extractLsb']
    repeat' split
    all_goals
      rw [← BitVec.getLsbD_eq_getElem]
      congr 1; omega
  simpa [takeU64, bytesU64] using h

@[simp] theorem takeBool_bytes (b : Bool) (rest : List Byte) :
    takeBool (bytesBool b ++ rest) = .ok (b, rest) := by cases b <;> rfl

@[simp] theorem takeBitIndex_bytes (i : BitIndex) (rest : List Byte) :
    takeBitIndex (bytesBitIndex i ++ rest) = .ok (i, rest) := by cases i <;> rfl

theorem takeNat_bytesNatFuel (rest : List Byte) :
    ∀ fuel n : Nat, n ≤ fuel → takeNat (bytesNatFuel fuel n ++ rest) = .ok (n, rest) := by
  intro fuel
  induction fuel with
  | zero =>
    intro n h
    obtain rfl : n = 0 := by omega
    rfl
  | succ fuel ih =>
    intro n h
    unfold bytesNatFuel
    split
    · rename_i hn
      have : n % 256 = n := by omega
      simp [takeNat, this, hn]
    · rename_i hn
      have h1 : (128 + n % 128) % 256 = 128 + n % 128 := by omega
      have h2 : ¬ (128 + n % 128 < 128) := by omega
      simp only [List.cons_append, takeNat, BitVec.toNat_ofNat, Nat.reducePow, h1, h2, if_false,
        ih (n / 128) (by omega)]
      congr 2
      omega

@[simp] theorem takeNat_bytes (n : Nat) (rest : List Byte) :
    takeNat (bytesNat n ++ rest) = .ok (n, rest) := takeNat_bytesNatFuel rest n n le_rfl

theorem takeTol_bytes {tol : Rat} (h : 0 ≤ tol) (rest : List Byte) :
    takeTol (bytesTol tol ++ rest) = .ok (tol, rest) := by
  unfold bytesTol
  split
  · rename_i hd
    simp [takeTol, hd]
  · have hn : ((tol.num.toNat : Nat) : Int) = tol.num := Int.toNat_of_nonneg (Rat.num_nonneg.2 h)
    have hden : tol.den ≠ 0 := tol.den_nz
    simp [takeTol, hden, hn, Rat.mkRat_self]

/-! ## One equation per selector: what `decode` does with the bytes after it -/

theorem decode_read16Period (rest : List Byte) : decode (0x10 :: rest) = .ok (.read16Period, rest) := by rfl
theorem decode_write16Period (rest : List Byte) : decode (0x30 :: rest) = withOperand .write16Period (takeU16 rest) := by rfl
theorem decode_read16Duty (rest : List Byte) : decode (0x14 :: rest) = .ok (.read16Duty, rest) := by rfl
theorem decode_write16Duty (rest : List Byte) : decode (0x34 :: rest) = withOperand .write16Duty (takeU16 rest) := by rfl
theorem decode_read8Control (rest : List Byte) : decode (0x08 :: rest) = .ok (.read8Control, rest) := by rfl
theorem decode_write8Control (rest : List Byte) : decode (0x28 :: rest) = withOperand .write8Control (takeU8 rest) := by rfl
theorem decode_read16Clock (rest : List Byte) : decode (0x1C :: rest) = .ok (.read16Clock, rest) := by rfl
theorem decode_write16Clock (rest : List Byte) : decode (0x3C :: rest) = withOperand .write16Clock (takeU16 rest) := by rfl
theorem decode_readPeriod (rest : List Byte) : decode (0x40 :: rest) = .ok (.readPeriod, rest) := by rfl
theorem decode_writePeriod (rest : List Byte) : decode (0x41 :: rest) = withOperand .writePeriod (takeU16 rest) := by rfl
theorem decode_readDuty (rest : List Byte) : decode (0x42 :: rest) = .ok (.readDuty, rest) := by rfl
theorem decode_writeDuty (rest : List Byte) : decode (0x43 :: rest) = withOperand .writeDuty (takeU16 rest) := by rfl
theorem decode_readClock (rest : List Byte) : decode (0x44 :: rest) = .ok (.readClock, rest) := by rfl
theorem decode_writeClock (rest : List Byte) : decode (0x45 :: rest) = withOperand .writeClock (takeU16 rest) := by rfl
theorem decode_readControl (rest : List Byte) : decode (0x46 :: rest) = .ok (.readControl, rest) := by rfl
theorem decode_writeControl (rest : List Byte) : decode (0x47 :: rest) = withOperand .writeControl (takeU8 rest) := by rfl
theorem decode_setBit (rest : List Byte) : decode (0x48 :: rest) = withOperand .setBit (takeBitIndex rest) := by rfl
theorem decode_clearBit (rest : List Byte) : decode (0x49 :: rest) = withOperand .clearBit (takeBitIndex rest) := by rfl
theorem decode_testBit (rest : List Byte) : decode (0x4A :: rest) = withOperand .testBit (takeBitIndex rest) := by rfl
theorem decode_start (rest : List Byte) : decode (0x81 :: rest) = withOperand .start (takeBool rest) := by rfl
theorem decode_stop (rest : List Byte) : decode (0x82 :: rest) = .ok (.stop, rest) := by rfl
theorem decode_resetCounter (rest : List Byte) : decode (0x83 :: rest) = .ok (.resetCounter, rest) := by rfl
theorem decode_selectClockSource (rest : List Byte) : decode (0x84 :: rest) = withOperand .selectClockSource (takeBool rest) := by rfl
theorem decode_interruptOccurred (rest : List Byte) : decode (0x85 :: rest) = .ok (.interruptOccurred, rest) := by rfl
theorem decode_acknowledgeInterrupt (rest : List Byte) : decode (0x86 :: rest) = .ok (.acknowledgeInterrupt, rest) := by rfl
theorem decode_hwCycleComplete (rest : List Byte) : decode (0xC0 :: rest) = .ok (.hwCycleComplete, rest) := by rfl
theorem decode_hwResetAutoClear (rest : List Byte) : decode (0xC1 :: rest) = .ok (.hwResetAutoClear, rest) := by rfl
theorem decode_configure (rest : List Byte) : decode (0x80 :: rest) = takeConfigure rest := by rfl
theorem decode_new (rest : List Byte) : decode (0x87 :: rest) = takeNew rest := by rfl

/-! ## The selectors of format BUS as numbers (R53) -/

theorem selector_read16Period : Instr.read16Period.selector = 0x10 := by
  simp only [Instr.selector]; decide
theorem selector_write16Period (v : U16) : (Instr.write16Period v).selector = 0x30 := by
  simp only [Instr.selector]; decide
theorem selector_read16Duty : Instr.read16Duty.selector = 0x14 := by
  simp only [Instr.selector]; decide
theorem selector_write16Duty (v : U16) : (Instr.write16Duty v).selector = 0x34 := by
  simp only [Instr.selector]; decide
theorem selector_read8Control : Instr.read8Control.selector = 0x08 := by
  simp only [Instr.selector]; decide
theorem selector_write8Control (v : U8) : (Instr.write8Control v).selector = 0x28 := by
  simp only [Instr.selector]; decide
theorem selector_read16Clock : Instr.read16Clock.selector = 0x1C := by
  simp only [Instr.selector]; decide
theorem selector_write16Clock (v : U16) : (Instr.write16Clock v).selector = 0x3C := by
  simp only [Instr.selector]; decide

end Sys2Proof
end

