-- ==== Sys2Proof/Laws/State.lean ====
section
/-! SUPPORT. One lemma per field per update of the state, each true by `rfl`, so that no proof unfolds a
record update. -/

namespace Sys2Proof.Machine

/-! ## `log` -/

@[simp] theorem log_period (e : Entry) (s : State) : (log e s).period = s.period := rfl
@[simp] theorem log_duty (e : Entry) (s : State) : (log e s).duty = s.duty := rfl
@[simp] theorem log_control (e : Entry) (s : State) : (log e s).control = s.control := rfl
@[simp] theorem log_clock (e : Entry) (s : State) : (log e s).clock = s.clock := rfl
@[simp] theorem log_base (e : Entry) (s : State) : (log e s).base = s.base := rfl
@[simp] theorem log_tol (e : Entry) (s : State) : (log e s).tol = s.tol := rfl
@[simp] theorem log_cfg (e : Entry) (s : State) : (log e s).cfg = s.cfg := rfl
@[simp] theorem log_inbox (e : Entry) (s : State) : (log e s).inbox = s.inbox := rfl
@[simp] theorem log_gaps (e : Entry) (s : State) : (log e s).gaps = s.gaps := rfl
@[simp] theorem log_busFaults (e : Entry) (s : State) : (log e s).busFaults = s.busFaults := rfl
@[simp] theorem log_result (e : Entry) (s : State) : (log e s).result = s.result := rfl
@[simp] theorem log_trace (e : Entry) (s : State) : (log e s).trace = s.trace ++ [e] := rfl
@[simp] theorem log_wideGet (e : Entry) (r : WideReg) (s : State) :
    wideGet r (log e s) = wideGet r s := by cases r <;> rfl

/-! ## `wideSet` -/

@[simp] theorem wideSet_control (r : WideReg) (v : U16) (s : State) :
    (wideSet r v s).control = s.control := by cases r <;> rfl
@[simp] theorem wideSet_base (r : WideReg) (v : U16) (s : State) :
    (wideSet r v s).base = s.base := by cases r <;> rfl
@[simp] theorem wideSet_tol (r : WideReg) (v : U16) (s : State) :
    (wideSet r v s).tol = s.tol := by cases r <;> rfl
@[simp] theorem wideSet_cfg (r : WideReg) (v : U16) (s : State) :
    (wideSet r v s).cfg = s.cfg := by cases r <;> rfl
@[simp] theorem wideSet_inbox (r : WideReg) (v : U16) (s : State) :
    (wideSet r v s).inbox = s.inbox := by cases r <;> rfl
@[simp] theorem wideSet_gaps (r : WideReg) (v : U16) (s : State) :
    (wideSet r v s).gaps = s.gaps := by cases r <;> rfl
@[simp] theorem wideSet_busFaults (r : WideReg) (v : U16) (s : State) :
    (wideSet r v s).busFaults = s.busFaults := by cases r <;> rfl
@[simp] theorem wideSet_result (r : WideReg) (v : U16) (s : State) :
    (wideSet r v s).result = s.result := by cases r <;> rfl
@[simp] theorem wideSet_trace (r : WideReg) (v : U16) (s : State) :
    (wideSet r v s).trace = s.trace := by cases r <;> rfl
@[simp] theorem wideSet_wideGet_same (r : WideReg) (v : U16) (s : State) :
    wideGet r (wideSet r v s) = v := by cases r <;> rfl
theorem wideSet_wideGet_other {r q : WideReg} (h : q ≠ r) (v : U16) (s : State) :
    wideGet q (wideSet r v s) = wideGet q s := by
  cases r <;> cases q <;> first | rfl | exact absurd rfl h
@[simp] theorem wideSet_period_eq (v : U16) (s : State) :
    wideSet .period v s = { s with period := v } := rfl
@[simp] theorem wideSet_duty_eq (v : U16) (s : State) :
    wideSet .duty v s = { s with duty := v } := rfl
@[simp] theorem wideSet_clock_eq (v : U16) (s : State) :
    wideSet .clock v s = { s with clock := v } := rfl

/-! ## `controlSet` -/

theorem controlSet_eq (v : U8) (s : State) :
    controlSet v s = { s with control := controlWrite s.control v } := by
  simp [controlSet, resetCounterEffect]
@[simp] theorem controlSet_period (v : U8) (s : State) :
    (controlSet v s).period = s.period := by simp [controlSet_eq]
@[simp] theorem controlSet_duty (v : U8) (s : State) :
    (controlSet v s).duty = s.duty := by simp [controlSet_eq]
@[simp] theorem controlSet_control (v : U8) (s : State) :
    (controlSet v s).control = controlWrite s.control v := by simp [controlSet_eq]
@[simp] theorem controlSet_clock (v : U8) (s : State) :
    (controlSet v s).clock = s.clock := by simp [controlSet_eq]
@[simp] theorem controlSet_base (v : U8) (s : State) :
    (controlSet v s).base = s.base := by simp [controlSet_eq]
@[simp] theorem controlSet_tol (v : U8) (s : State) :
    (controlSet v s).tol = s.tol := by simp [controlSet_eq]
@[simp] theorem controlSet_cfg (v : U8) (s : State) :
    (controlSet v s).cfg = s.cfg := by simp [controlSet_eq]
@[simp] theorem controlSet_inbox (v : U8) (s : State) :
    (controlSet v s).inbox = s.inbox := by simp [controlSet_eq]
@[simp] theorem controlSet_gaps (v : U8) (s : State) :
    (controlSet v s).gaps = s.gaps := by simp [controlSet_eq]
@[simp] theorem controlSet_busFaults (v : U8) (s : State) :
    (controlSet v s).busFaults = s.busFaults := by simp [controlSet_eq]
@[simp] theorem controlSet_result (v : U8) (s : State) :
    (controlSet v s).result = s.result := by simp [controlSet_eq]
@[simp] theorem controlSet_trace (v : U8) (s : State) :
    (controlSet v s).trace = s.trace := by simp [controlSet_eq]

/-! ## `State.resetWith` -/

@[simp] theorem resetWith_period (v : ResetValues) (cfg : Config) :
    (State.resetWith v cfg).period = v.period := rfl
@[simp] theorem resetWith_duty (v : ResetValues) (cfg : Config) :
    (State.resetWith v cfg).duty = v.duty := rfl
@[simp] theorem resetWith_control (v : ResetValues) (cfg : Config) :
    (State.resetWith v cfg).control = v.control &&& 0x5B := rfl
@[simp] theorem resetWith_clock (v : ResetValues) (cfg : Config) :
    (State.resetWith v cfg).clock = v.clock := rfl
@[simp] theorem resetWith_base (v : ResetValues) (cfg : Config) :
    (State.resetWith v cfg).base = 0 := rfl
@[simp] theorem resetWith_tol (v : ResetValues) (cfg : Config) :
    (State.resetWith v cfg).tol = defaultTol := rfl
@[simp] theorem resetWith_cfg (v : ResetValues) (cfg : Config) :
    (State.resetWith v cfg).cfg = cfg := rfl
@[simp] theorem resetWith_inbox (v : ResetValues) (cfg : Config) :
    (State.resetWith v cfg).inbox = [] := rfl
@[simp] theorem resetWith_gaps (v : ResetValues) (cfg : Config) :
    (State.resetWith v cfg).gaps = [] := rfl
@[simp] theorem resetWith_busFaults (v : ResetValues) (cfg : Config) :
    (State.resetWith v cfg).busFaults = [] := rfl
@[simp] theorem resetWith_result (v : ResetValues) (cfg : Config) :
    (State.resetWith v cfg).result = .none := rfl
@[simp] theorem resetWith_trace (v : ResetValues) (cfg : Config) :
    (State.resetWith v cfg).trace = [] := rfl

end Sys2Proof.Machine
end

