-- ==== Sys2Proof/Laws/Ops.lean ====
section
/-! SUPPORT. What each shared operation can do, said once: transactions under `MAPPED`, the
read-modify-write, the hardware's events, and what may fall between two transactions. -/

namespace Sys2Proof.Machine

/-! ## Sequencing and endings -/

@[simp] theorem andThen_ok {α β : Type} (a : α) (s : State) (k : α → State → Bus β) :
    andThen (.ok (a, s)) k = k a s := rfl

@[simp] theorem andThen_error {α β : Type} (f : Fault) (k : α → State → Bus β) :
    andThen (α := α) (.error f) k = .error f := rfl

@[simp] theorem andThenGap_ok {α β : Type} (a : α) (s : State) (k : α → State → Bus β) :
    andThenGap (.ok (a, s)) k = andThen (gap s) fun _ s => k a s := rfl

@[simp] theorem andThenGap_error {α β : Type} (f : Fault) (k : α → State → Bus β) :
    andThenGap (α := α) (.error f) k = .error f := rfl

theorem perform_of_ok {op : State → Bus Result} {s t : State} {r : Result}
    (h : op { s with trace := [] } = .ok (r, t)) : perform op s = .next { t with result := r } := by
  simp [perform, h]

theorem perform_of_error {op : State → Bus Result} {s : State} {f : Fault}
    (h : op { s with trace := [] } = .error f) : perform op s = .fault f := by
  simp [perform, h]

theorem performOk_of_ok {α : Type} {wrap : α → Value} {op : State → Bus α} {s t : State} {a : α}
    (h : op { s with trace := [] } = .ok (a, t)) :
    performOk wrap op s = .next { t with result := .ok (wrap a) } := by
  simp [performOk, perform, h, returnValue]

theorem performOk_of_error {α : Type} {wrap : α → Value} {op : State → Bus α} {s : State} {f : Fault}
    (h : op { s with trace := [] } = .error f) : performOk wrap op s = .fault f := by
  simp [performOk, perform, h]

/-! ## Transactions under `MAPPED` -/

theorem windowRegister_wide (r : WideReg) : windowRegister (wideOffset r) 2 = some (.wide r) := by
  cases r <;> rfl

theorem windowRegister_control : windowRegister controlOffset 1 = some .control := rfl

/-- An admitted access never faults under `MAPPED` (R51). -/
theorem grant_mapped {s : State} (h : s.cfg.mapped = true) (who : Issuer) {offset n : Nat} {r : Reg}
    (hr : windowRegister offset n = some r) :
    grant who (effectiveAddress offset s) n s = .ok (r, s) := by
  simp [grant, effectiveAddress, h, hr]

/-- An access that is not admitted faults, whatever the state (R37). -/
theorem grant_not_admitted {s : State} (who : Issuer) {offset n : Nat}
    (hr : windowRegister offset n = none) :
    grant who (effectiveAddress offset s) n s =
      .error (accessFault who (effectiveAddress offset s) n s) := by
  simp [grant, effectiveAddress, hr]

theorem memRead_wide_mapped {s : State} (h : s.cfg.mapped = true) (who : Issuer) (r : WideReg) :
    memRead who (effectiveAddress (wideOffset r) s) 2 s =
      .ok (wideGet r s, log (.read16 who (wideOffset r) (wideGet r s)) s) := by
  simp [memRead, grant_mapped h who (windowRegister_wide r)]

theorem memRead_control_mapped {s : State} (h : s.cfg.mapped = true) (who : Issuer) :
    memRead who (effectiveAddress controlOffset s) 1 s =
      .ok (s.control.setWidth 16, log (.read8 who controlOffset s.control) s) := by
  simp [memRead, grant_mapped h who windowRegister_control]

theorem memWrite_wide_mapped {s : State} (h : s.cfg.mapped = true) (who : Issuer) (r : WideReg)
    (v : U16) :
    memWrite who (effectiveAddress (wideOffset r) s) 2 v s =
      .ok ((), log (.write16 who (wideOffset r) v) (wideSet r v s)) := by
  simp [memWrite, grant_mapped h who (windowRegister_wide r)]

theorem memWrite_control_mapped {s : State} (h : s.cfg.mapped = true) (who : Issuer) (v : U8) :
    memWrite who (effectiveAddress controlOffset s) 1 (v.setWidth 16) s =
      .ok ((), log (.write8 who controlOffset v) (controlSet v s)) := by
  simp [memWrite, grant_mapped h who windowRegister_control]

theorem read16_mapped {s : State} (h : s.cfg.mapped = true) (r : WideReg) :
    read16 (wideOffset r) s =
      .ok (wideGet r s, log (.read16 .own (wideOffset r) (wideGet r s)) s) :=
  memRead_wide_mapped h .own r

theorem write16_mapped {s : State} (h : s.cfg.mapped = true) (r : WideReg) (v : U16) :
    write16 (wideOffset r) v s =
      .ok ((), log (.write16 .own (wideOffset r) v) (wideSet r v s)) :=
  memWrite_wide_mapped h .own r v

theorem read8_mapped {s : State} (h : s.cfg.mapped = true) :
    read8 controlOffset s = .ok (s.control, log (.read8 .own controlOffset s.control) s) := by
  simp [read8, memRead_control_mapped h]

theorem write8_mapped {s : State} (h : s.cfg.mapped = true) (v : U8) :
    write8 controlOffset v s = .ok ((), log (.write8 .own controlOffset v) (controlSet v s)) :=
  memWrite_control_mapped h .own v

/-! ## What a transaction that answers has done, whatever the premises -/

/-- Something answered: the first part answered, and so did what followed. -/
theorem andThen_cases {α β : Type} {x : Bus α} {k : α → State → Bus β} {b : β} {t : State}
    (h : andThen x k = .ok (b, t)) : ∃ a u, x = .ok (a, u) ∧ k a u = .ok (b, t) := by
  unfold andThen at h
  split at h
  · cases h
  · exact ⟨_, _, rfl, h⟩

/-- Two parts with a place for other agents between them answered: all three did. -/
theorem andThenGap_cases {α β : Type} {x : Bus α} {k : α → State → Bus β} {b : β} {t : State}
    (h : andThenGap x k = .ok (b, t)) :
    ∃ a u v, x = .ok (a, u) ∧ gap u = .ok ((), v) ∧ k a v = .ok (b, t) := by
  obtain ⟨a, u, h1, h2⟩ := andThen_cases h
  obtain ⟨_, v, h3, h4⟩ := andThen_cases h2
  exact ⟨a, u, v, h1, h3, h4⟩

/-- A granted access reached the register the window holds, and at most a fault choice was used up. -/
theorem grant_cases {s t : State} {who : Issuer} {offset n : Nat} {r : Reg}
    (h : grant who (effectiveAddress offset s) n s = .ok (r, t)) :
    windowRegister offset n = some r ∧ ∃ bf, t = { s with busFaults := bf } := by
  unfold grant at h
  rw [if_neg (by simp [effectiveAddress])] at h
  have ho : effectiveAddress offset s - s.base.toNat = offset := by simp [effectiveAddress]
  rw [ho] at h
  split at h
  · cases h
  · rename_i q hq
    split at h
    · cases h; exact ⟨hq, _, rfl⟩
    · split at h
      · cases h; exact ⟨hq, _, rfl⟩
      · cases h
      · cases h; exact ⟨hq, _, rfl⟩

/-- Without `MAPPED`, an admitted access takes one choice: it faults there iff the choice is true, and then
no register has changed (R51). -/
theorem grant_faults {s : State} (h : s.cfg.mapped = false) (who : Issuer) {offset n : Nat} {r : Reg}
    (hr : windowRegister offset n = some r) {later : List Bool} (hb : s.busFaults = true :: later) :
    grant who (effectiveAddress offset s) n s =
      .error (accessFault who (effectiveAddress offset s) n { s with busFaults := later }) := by
  simp [grant, effectiveAddress, h, hr, hb]

theorem memRead_wide_cases {s t : State} {who : Issuer} {r : WideReg} {v : U16}
    (h : memRead who (effectiveAddress (wideOffset r) s) 2 s = .ok (v, t)) :
    v = wideGet r s ∧
      ∃ bf, t = log (.read16 who (wideOffset r) (wideGet r s)) { s with busFaults := bf } := by
  obtain ⟨q, w, h3, h4⟩ := andThen_cases h
  obtain ⟨hr, bf, rfl⟩ := grant_cases h3
  rw [windowRegister_wide] at hr
  cases hr
  cases h4
  cases r <;> exact ⟨rfl, bf, rfl⟩

theorem memRead_control_cases {s t : State} {who : Issuer} {v : U16}
    (h : memRead who (effectiveAddress controlOffset s) 1 s = .ok (v, t)) :
    v = s.control.setWidth 16 ∧
      ∃ bf, t = log (.read8 who controlOffset s.control) { s with busFaults := bf } := by
  obtain ⟨q, w, h3, h4⟩ := andThen_cases h
  obtain ⟨hr, bf, rfl⟩ := grant_cases h3
  rw [windowRegister_control] at hr
  cases hr
  cases h4
  exact ⟨rfl, bf, rfl⟩

theorem memWrite_wide_cases {s t : State} {who : Issuer} {r : WideReg} {v : U16} {x : Unit}
    (h : memWrite who (effectiveAddress (wideOffset r) s) 2 v s = .ok (x, t)) :
    ∃ bf, t = log (.write16 who (wideOffset r) v) (wideSet r v { s with busFaults := bf }) := by
  obtain ⟨q, w, h3, h4⟩ := andThen_cases h
  obtain ⟨hr, bf, rfl⟩ := grant_cases h3
  rw [windowRegister_wide] at hr
  cases hr
  cases h4
  exact ⟨bf, rfl⟩

theorem memWrite_control_cases {s t : State} {who : Issuer} {v : U8} {x : Unit}
    (h : memWrite who (effectiveAddress controlOffset s) 1 (v.setWidth 16) s = .ok (x, t)) :
    ∃ bf, t = log (.write8 who controlOffset v) (controlSet v { s with busFaults := bf }) := by
  obtain ⟨q, w, h3, h4⟩ := andThen_cases h
  obtain ⟨hr, bf, rfl⟩ := grant_cases h3
  rw [windowRegister_control] at hr
  cases hr
  cases h4
  exact ⟨bf, by simp⟩

theorem read8_cases {s t : State} {c : U8} (h : read8 controlOffset s = .ok (c, t)) :
    c = s.control ∧
      ∃ bf, t = log (.read8 .own controlOffset s.control) { s with busFaults := bf } := by
  obtain ⟨v, u, h1, h2⟩ := andThen_cases h
  obtain ⟨rfl, bf, rfl⟩ := memRead_control_cases h1
  cases h2
  exact ⟨by simp, bf, rfl⟩

theorem write8_cases {s t : State} {v : U8} {x : Unit} (h : write8 controlOffset v s = .ok (x, t)) :
    ∃ bf, t = log (.write8 .own controlOffset v) (controlSet v { s with busFaults := bf }) :=
  memWrite_control_cases h

theorem read16_cases {s t : State} {r : WideReg} {v : U16} (h : read16 (wideOffset r) s = .ok (v, t)) :
    v = wideGet r s ∧
      ∃ bf, t = log (.read16 .own (wideOffset r) (wideGet r s)) { s with busFaults := bf } :=
  memRead_wide_cases h

theorem write16_cases {s t : State} {r : WideReg} {v : U16} {x : Unit}
    (h : write16 (wideOffset r) v s = .ok (x, t)) :
    ∃ bf, t = log (.write16 .own (wideOffset r) v) (wideSet r v { s with busFaults := bf }) :=
  memWrite_wide_cases h

/-! ## Between two transactions -/

/-- What the hardware may do to CONTROL on its own (R115, R148): it only sets bit 5 and only clears bits 2
and 7; the other bits stay. -/
structure HardwareOnly (c d : U8) : Prop where
  interrupt_kept : flag .interrupt c = true → flag .interrupt d = true
  start_not_set : flag .pwmStart d = true → flag .pwmStart c = true
  reset_not_set : flag .resetCounter d = true → flag .resetCounter c = true
  others : d &&& 0x5B = c &&& 0x5B

theorem HardwareOnly.refl (c : U8) : HardwareOnly c c := ⟨id, id, id, rfl⟩

theorem HardwareOnly.trans {c d e : U8} (h : HardwareOnly c d) (k : HardwareOnly d e) :
    HardwareOnly c e :=
  ⟨fun x => k.interrupt_kept (h.interrupt_kept x), fun x => h.start_not_set (k.start_not_set x),
   fun x => h.reset_not_set (k.reset_not_set x), k.others.trans h.others⟩

theorem eventEffect_cycle_facts : ∀ c : U8,
    flag .interrupt (eventEffect c .cycleComplete) = true ∧
    (flag .pwmStart (eventEffect c .cycleComplete) = true → flag .pwmStart c = true) ∧
    (flag .resetCounter (eventEffect c .cycleComplete) = flag .resetCounter c) ∧
    eventEffect c .cycleComplete &&& 0x5B = c &&& 0x5B := by decide +kernel

theorem eventEffect_clear_facts : ∀ c : U8,
    flag .interrupt (eventEffect c .resetAutoClear) = flag .interrupt c ∧
    flag .pwmStart (eventEffect c .resetAutoClear) = flag .pwmStart c ∧
    flag .resetCounter (eventEffect c .resetAutoClear) = false ∧
    eventEffect c .resetAutoClear &&& 0x5B = c &&& 0x5B := by decide +kernel

theorem eventEffect_hardwareOnly (c : U8) (e : HwEvent) : HardwareOnly c (eventEffect c e) := by
  cases e with
  | cycleComplete =>
    obtain ⟨h1, h2, h3, h4⟩ := eventEffect_cycle_facts c
    exact ⟨fun _ => h1, h2, fun h => h3 ▸ h, h4⟩
  | resetAutoClear =>
    obtain ⟨h1, h2, h3, h4⟩ := eventEffect_clear_facts c
    exact ⟨fun h => h1 ▸ h, fun h => h2 ▸ h, fun h => absurd h (by simp [h3]), h4⟩

/-- Everything but CONTROL, the record and the choices still to be made is the same, and CONTROL changed
only as the hardware may change it. -/
structure Calm (s t : State) : Prop where
  period : t.period = s.period
  duty : t.duty = s.duty
  clock : t.clock = s.clock
  base : t.base = s.base
  tol : t.tol = s.tol
  cfg : t.cfg = s.cfg
  inbox : t.inbox = s.inbox
  result : t.result = s.result
  control : HardwareOnly s.control t.control

theorem Calm.refl (s : State) : Calm s s := ⟨rfl, rfl, rfl, rfl, rfl, rfl, rfl, rfl, .refl _⟩

theorem Calm.trans {s t u : State} (h : Calm s t) (k : Calm t u) : Calm s u :=
  ⟨k.period.trans h.period, k.duty.trans h.duty, k.clock.trans h.clock, k.base.trans h.base,
   k.tol.trans h.tol, k.cfg.trans h.cfg, k.inbox.trans h.inbox, k.result.trans h.result,
   h.control.trans k.control⟩

theorem hwEvent_calm (e : HwEvent) (s : State) : Calm s (hwEvent e s) := by
  unfold hwEvent
  split
  · exact ⟨rfl, rfl, rfl, rfl, rfl, rfl, rfl, rfl, eventEffect_hardwareOnly _ _⟩
  · exact .refl s

/-- Under `EXCLUSIVE_MUTATORS` another context's access only reads. -/
theorem foreignAccess_calm {s t : State} (h : s.cfg.exclusiveMutators = true) {x : Transaction}
    (hx : foreignAccess x s = .ok ((), t)) : Calm s t := by
  cases x with
  | readWide r =>
    obtain ⟨v, u, h1, h2⟩ := andThen_cases hx
    obtain ⟨-, bf, rfl⟩ := memRead_wide_cases h1
    cases h2
    exact ⟨rfl, rfl, rfl, rfl, rfl, rfl, rfl, rfl, .refl _⟩
  | readControl =>
    obtain ⟨v, u, h1, h2⟩ := andThen_cases hx
    obtain ⟨-, bf, rfl⟩ := memRead_control_cases h1
    cases h2
    exact ⟨rfl, rfl, rfl, rfl, rfl, rfl, rfl, rfl, .refl _⟩
  | writeWide r v => simp only [foreignAccess, h, if_true] at hx; cases hx; exact .refl s
  | writeControl v => simp only [foreignAccess, h, if_true] at hx; cases hx; exact .refl s

theorem occur_calm {s t : State} (h : s.cfg.exclusiveMutators = true) {o : Occurrence}
    (ho : occur o s = .ok ((), t)) : Calm s t := by
  cases o with
  | event e => cases ho; exact hwEvent_calm e s
  | foreign x => exact foreignAccess_calm h ho

theorem occurAll_calm (l : List Occurrence) : ∀ {s t : State}, s.cfg.exclusiveMutators = true →
    occurAll l s = .ok ((), t) → Calm s t := by
  induction l with
  | nil => intro s t _ hl; cases hl; exact .refl s
  | cons o l ih =>
    intro s t h hl
    obtain ⟨_, u, h1, h2⟩ := andThen_cases hl
    have ho := occur_calm h h1
    exact ho.trans (ih (by rw [ho.cfg]; exact h) h2)

/-- Under `EXCLUSIVE_MUTATORS` only the hardware acts on the registers between two transactions, and only
as R115 and R148 allow. -/
theorem gap_calm {s t : State} (h : s.cfg.exclusiveMutators = true) (hg : gap s = .ok ((), t)) :
    Calm s t := by
  unfold gap at hg
  split at hg
  · cases hg; exact .refl s
  · rename_i here later _
    exact Calm.trans (t := { s with gaps := later })
      ⟨rfl, rfl, rfl, rfl, rfl, rfl, rfl, rfl, .refl _⟩
      (occurAll_calm here (s := { s with gaps := later }) h hg)

/-- Whatever the premises, what falls between two transactions leaves the controller's fields, the
parameters, the stream and the result alone. -/
structure SameFrame (s t : State) : Prop where
  base : t.base = s.base
  tol : t.tol = s.tol
  cfg : t.cfg = s.cfg
  inbox : t.inbox = s.inbox
  result : t.result = s.result

theorem SameFrame.refl (s : State) : SameFrame s s := ⟨rfl, rfl, rfl, rfl, rfl⟩

theorem SameFrame.trans {s t u : State} (h : SameFrame s t) (k : SameFrame t u) : SameFrame s u :=
  ⟨k.base.trans h.base, k.tol.trans h.tol, k.cfg.trans h.cfg, k.inbox.trans h.inbox,
   k.result.trans h.result⟩

theorem foreignAccess_sameFrame {s t : State} {x : Transaction}
    (hx : foreignAccess x s = .ok ((), t)) : SameFrame s t := by
  cases x with
  | readWide r =>
    obtain ⟨v, u, h1, h2⟩ := andThen_cases hx
    obtain ⟨-, bf, rfl⟩ := memRead_wide_cases h1
    cases h2
    exact ⟨rfl, rfl, rfl, rfl, rfl⟩
  | readControl =>
    obtain ⟨v, u, h1, h2⟩ := andThen_cases hx
    obtain ⟨-, bf, rfl⟩ := memRead_control_cases h1
    cases h2
    exact ⟨rfl, rfl, rfl, rfl, rfl⟩
  | writeWide r v =>
    simp only [foreignAccess] at hx
    split at hx
    · cases hx; exact .refl s
    · obtain ⟨bf, rfl⟩ := memWrite_wide_cases hx
      constructor <;> simp
  | writeControl v =>
    simp only [foreignAccess] at hx
    split at hx
    · cases hx; exact .refl s
    · obtain ⟨bf, rfl⟩ := memWrite_control_cases hx
      constructor <;> simp

theorem occur_sameFrame {s t : State} {o : Occurrence} (ho : occur o s = .ok ((), t)) :
    SameFrame s t := by
  cases o with
  | event e =>
    cases ho
    have h := hwEvent_calm e s
    exact ⟨h.base, h.tol, h.cfg, h.inbox, h.result⟩
  | foreign x => exact foreignAccess_sameFrame ho

theorem occurAll_sameFrame (l : List Occurrence) :
    ∀ {s t : State}, occurAll l s = .ok ((), t) → SameFrame s t := by
  induction l with
  | nil => intro s t hl; cases hl; exact .refl s
  | cons o l ih =>
    intro s t hl
    obtain ⟨_, u, h1, h2⟩ := andThen_cases hl
    exact (occur_sameFrame h1).trans (ih h2)

theorem gap_sameFrame {s t : State} (hg : gap s = .ok ((), t)) : SameFrame s t := by
  unfold gap at hg
  split at hg
  · cases hg; exact .refl s
  · rename_i here later _
    exact SameFrame.trans (t := { s with gaps := later }) ⟨rfl, rfl, rfl, rfl, rfl⟩
      (occurAll_sameFrame here (s := { s with gaps := later }) hg)

/-- Under `MAPPED` an occurrence is never stopped by a fault, and uses up no choice. -/
theorem occur_mapped {s : State} (h : s.cfg.mapped = true) (o : Occurrence) :
    ∃ t, occur o s = .ok ((), t) ∧ t.busFaults = s.busFaults ∧ t.gaps = s.gaps := by
  cases o with
  | event e =>
    refine ⟨_, rfl, ?_, ?_⟩ <;> simp only [hwEvent] <;> split <;> rfl
  | foreign x =>
    cases x with
    | readWide r => simp [occur, foreignAccess, memRead_wide_mapped h]
    | readControl => simp [occur, foreignAccess, memRead_control_mapped h]
    | writeWide r v =>
      by_cases hx : s.cfg.exclusiveMutators = true <;>
        simp [occur, foreignAccess, memWrite_wide_mapped h, hx]
    | writeControl v =>
      by_cases hx : s.cfg.exclusiveMutators = true <;>
        simp [occur, foreignAccess, memWrite_control_mapped h, hx]

theorem occurAll_mapped (l : List Occurrence) : ∀ {s : State}, s.cfg.mapped = true →
    ∃ t, occurAll l s = .ok ((), t) ∧ t.busFaults = s.busFaults ∧ t.gaps = s.gaps := by
  induction l with
  | nil => intro s _; exact ⟨s, rfl, rfl, rfl⟩
  | cons o l ih =>
    intro s h
    obtain ⟨u, h1, h2, h3⟩ := occur_mapped h o
    obtain ⟨t, h4, h5, h6⟩ := ih (by rw [(occur_sameFrame h1).cfg]; exact h)
    exact ⟨t, by simp [occurAll, h1, h4], h5.trans h2, h6.trans h3⟩

/-- Under `MAPPED` the place between two transactions uses up one entry of `gaps` and nothing else of the
choices, and never ends the operation. -/
theorem gap_mapped {s : State} (h : s.cfg.mapped = true) :
    ∃ t, gap s = .ok ((), t) ∧ SameFrame s t ∧ t.busFaults = s.busFaults ∧ t.gaps = s.gaps.tail := by
  suffices hg : ∃ t, gap s = .ok ((), t) ∧ t.busFaults = s.busFaults ∧ t.gaps = s.gaps.tail by
    obtain ⟨t, h1, h2, h3⟩ := hg
    exact ⟨t, h1, gap_sameFrame h1, h2, h3⟩
  unfold gap
  split
  · rename_i hn
    exact ⟨s, rfl, rfl, by simp [hn]⟩
  · rename_i here later hn
    obtain ⟨t, h1, h2, h3⟩ := occurAll_mapped here (s := { s with gaps := later }) h
    exact ⟨t, h1, h2, by simpa [hn] using h3⟩

/-- With no choice left, nothing falls between two transactions. -/
theorem gap_of_nil {s : State} (h : s.gaps = []) : gap s = .ok ((), s) := by simp [gap, h]

/-! ## The read-modify-write and the bit test -/

/-- The two transactions of a read-modify-write with nothing between them, under `MAPPED`. -/
theorem modifyControl_alone {s : State} (h : s.cfg.mapped = true) (hg : s.gaps = []) (f : U8 → U8) :
    modifyControl f s =
      .ok ((), log (.write8 .own controlOffset (f s.control))
        (controlSet (f s.control) (log (.read8 .own controlOffset s.control) s))) := by
  simp [modifyControl, read8_mapped h, gap_of_nil, hg, write8_mapped, h]

/-- A read-modify-write that answers: what it read, what fell between, what it wrote. -/
theorem modifyControl_cases {f : U8 → U8} {s t : State} {x : Unit}
    (h : modifyControl f s = .ok (x, t)) :
    ∃ bf u bf', gap (log (.read8 .own controlOffset s.control) { s with busFaults := bf }) =
        .ok ((), u) ∧
      t = log (.write8 .own controlOffset (f s.control))
        (controlSet (f s.control) { u with busFaults := bf' }) := by
  obtain ⟨c, u, v, h1, h2, h3⟩ := andThenGap_cases h
  obtain ⟨rfl, bf, rfl⟩ := read8_cases h1
  obtain ⟨bf', rfl⟩ := write8_cases h3
  exact ⟨bf, v, bf', h2, rfl⟩

/-- An operation that answers a next state did so through its body, run from a fresh record. -/
theorem perform_cases {op : State → Bus Result} {s t : State} (h : perform op s = .next t) :
    ∃ r u, op { s with trace := [] } = .ok (r, u) ∧ t = { u with result := r } := by
  unfold perform at h
  split at h
  · rename_i r u hu
    cases h
    exact ⟨r, u, hu, rfl⟩
  · cases h

theorem performOk_cases {α : Type} {wrap : α → Value} {op : State → Bus α} {s t : State}
    (h : performOk wrap op s = .next t) :
    ∃ a u, op { s with trace := [] } = .ok (a, u) ∧ t = { u with result := .ok (wrap a) } := by
  obtain ⟨r, u, h1, rfl⟩ := perform_cases h
  obtain ⟨a, w, h2, h3⟩ := andThen_cases h1
  cases h3
  exact ⟨a, _, h2, rfl⟩

end Sys2Proof.Machine
end

