-- ==== Sys2Proof/Laws/PerInstr.lean ====
section
/-! SUPPORT. Statements made per instruction. `Shape` says of each row of the opcode table that its words
begin with its selector, that the selector's top two bits name the row's format (R52), and how many operand
bytes follow a selector whose operands have a fixed length. -/

namespace Sys2Proof.Laws.Shape

/-- How many operand bytes a row has; `none` for `new`, whose tolerance has any length. -/
def operandLength : Instr → Option Nat
  | .read16Period | .read16Duty | .read8Control | .read16Clock => some 0
  | .write16Period _ | .write16Duty _ | .write16Clock _ => some 2
  | .write8Control _ => some 1
  | .readPeriod | .readDuty | .readClock | .readControl => some 0
  | .writePeriod _ | .writeDuty _ | .writeClock _ => some 2
  | .writeControl _ => some 1
  | .setBit _ | .clearBit _ | .testBit _ => some 1
  | .configure _ _ _ => some 24
  | .start _ | .selectClockSource _ => some 1
  | .stop | .resetCounter | .interruptOccurred | .acknowledgeInterrupt => some 0
  | .new _ _ => none
  | .hwCycleComplete | .hwResetAutoClear => some 0

/-- The statement of the family. -/
def Statement (i : Instr) : Prop :=
  encode i = i.selector :: i.operandBytes ∧
  Format.ofSelector i.selector = i.format ∧
  ∀ n, operandLength i = some n → (encode i).length = n + 1

theorem read16Period : Statement .read16Period :=
  ⟨rfl, by simp only [Instr.selector, Instr.format]; decide, by intro n h; cases h; rfl⟩

theorem write16Period (v : U16) : Statement (.write16Period v) :=
  ⟨rfl, by simp only [Instr.selector, Instr.format]; decide, by intro n h; cases h; rfl⟩

theorem read16Duty : Statement .read16Duty :=
  ⟨rfl, by simp only [Instr.selector, Instr.format]; decide, by intro n h; cases h; rfl⟩

theorem write16Duty (v : U16) : Statement (.write16Duty v) :=
  ⟨rfl, by simp only [Instr.selector, Instr.format]; decide, by intro n h; cases h; rfl⟩

theorem read8Control : Statement .read8Control :=
  ⟨rfl, by simp only [Instr.selector, Instr.format]; decide, by intro n h; cases h; rfl⟩

theorem write8Control (v : U8) : Statement (.write8Control v) :=
  ⟨rfl, by simp only [Instr.selector, Instr.format]; decide, by intro n h; cases h; rfl⟩

theorem read16Clock : Statement .read16Clock :=
  ⟨rfl, by simp only [Instr.selector, Instr.format]; decide, by intro n h; cases h; rfl⟩

theorem write16Clock (v : U16) : Statement (.write16Clock v) :=
  ⟨rfl, by simp only [Instr.selector, Instr.format]; decide, by intro n h; cases h; rfl⟩

theorem readPeriod : Statement .readPeriod :=
  ⟨rfl, by simp only [Instr.selector, Instr.format]; decide, by intro n h; cases h; rfl⟩

theorem writePeriod (v : U16) : Statement (.writePeriod v) :=
  ⟨rfl, by simp only [Instr.selector, Instr.format]; decide, by intro n h; cases h; rfl⟩

theorem readDuty : Statement .readDuty :=
  ⟨rfl, by simp only [Instr.selector, Instr.format]; decide, by intro n h; cases h; rfl⟩

theorem writeDuty (v : U16) : Statement (.writeDuty v) :=
  ⟨rfl, by simp only [Instr.selector, Instr.format]; decide, by intro n h; cases h; rfl⟩

theorem readClock : Statement .readClock :=
  ⟨rfl, by simp only [Instr.selector, Instr.format]; decide, by intro n h; cases h; rfl⟩

theorem writeClock (v : U16) : Statement (.writeClock v) :=
  ⟨rfl, by simp only [Instr.selector, Instr.format]; decide, by intro n h; cases h; rfl⟩

theorem readControl : Statement .readControl :=
  ⟨rfl, by simp only [Instr.selector, Instr.format]; decide, by intro n h; cases h; rfl⟩

theorem writeControl (v : U8) : Statement (.writeControl v) :=
  ⟨rfl, by simp only [Instr.selector, Instr.format]; decide, by intro n h; cases h; rfl⟩

theorem setBit (i : BitIndex) : Statement (.setBit i) :=
  ⟨rfl, by simp only [Instr.selector, Instr.format]; decide, by intro n h; cases h; rfl⟩

theorem clearBit (i : BitIndex) : Statement (.clearBit i) :=
  ⟨rfl, by simp only [Instr.selector, Instr.format]; decide, by intro n h; cases h; rfl⟩

theorem testBit (i : BitIndex) : Statement (.testBit i) :=
  ⟨rfl, by simp only [Instr.selector, Instr.format]; decide, by intro n h; cases h; rfl⟩

theorem configure (f : F64) (r : F64) (c : F64) : Statement (.configure f r c) :=
  ⟨rfl, by simp only [Instr.selector, Instr.format]; decide, by intro n h; cases h; rfl⟩

theorem start (c : Bool) : Statement (.start c) :=
  ⟨rfl, by simp only [Instr.selector, Instr.format]; decide, by intro n h; cases h; rfl⟩

theorem stop : Statement .stop :=
  ⟨rfl, by simp only [Instr.selector, Instr.format]; decide, by intro n h; cases h; rfl⟩

theorem resetCounter : Statement .resetCounter :=
  ⟨rfl, by simp only [Instr.selector, Instr.format]; decide, by intro n h; cases h; rfl⟩

theorem selectClockSource (e : Bool) : Statement (.selectClockSource e) :=
  ⟨rfl, by simp only [Instr.selector, Instr.format]; decide, by intro n h; cases h; rfl⟩

theorem interruptOccurred : Statement .interruptOccurred :=
  ⟨rfl, by simp only [Instr.selector, Instr.format]; decide, by intro n h; cases h; rfl⟩

theorem acknowledgeInterrupt : Statement .acknowledgeInterrupt :=
  ⟨rfl, by simp only [Instr.selector, Instr.format]; decide, by intro n h; cases h; rfl⟩

theorem new (base : Address) (tol : Rat) : Statement (.new base tol) :=
  ⟨rfl, by simp only [Instr.selector, Instr.format]; decide, by intro n h; cases h⟩

theorem hwCycleComplete : Statement .hwCycleComplete :=
  ⟨rfl, by simp only [Instr.selector, Instr.format]; decide, by intro n h; cases h; rfl⟩

theorem hwResetAutoClear : Statement .hwResetAutoClear :=
  ⟨rfl, by simp only [Instr.selector, Instr.format]; decide, by intro n h; cases h; rfl⟩

end Sys2Proof.Laws.Shape
end

