-- ==== Sys2Proof/Tests/Slice0.lean ====
section
/-! SUPPORT. The model's own tests, and for each statement with hypotheses a named witness that meets them.
Expected values come from spec/95_test_vectors.md and the rules' own examples, named at each test; f64 bit
patterns are IEEE 754 encodings worked out from the format. -/

namespace Sys2Proof.Tests

open Sys2Proof.Machine Sys2Proof.Safety

/-! ## Helpers -/

/-- The reset state with a given CONTROL. -/
def at_ (c : U8) : State := { State.reset with control := c }

/-- The reset state with a given CONTROL and choices for the gaps. -/
def atGaps (c : U8) (g : List (List Occurrence)) : State := { State.reset with control := c, gaps := g }

/-- A check on the next state; false where the operation stops. -/
def onNext (o : Host.Outcome State Fault Refusal) (p : State → Bool) : Bool :=
  match o with
  | .next t => p t
  | .fault _ => false
  | .refused _ => false

/-- CONTROL after an operation. -/
def gives (i : Instr) (s : State) (c : U8) : Bool := onNext (exec i s) fun t => t.control == c

/-- CONTROL and the result after an operation. -/
def answers (i : Instr) (s : State) (r : Result) (c : U8) : Bool :=
  onNext (exec i s) fun t => t.control == c && t.result == r

/-- The values of CONTROL an operation read and wrote, in order, as spec/95 section 2.4 lists them. -/
def moved (t : State) : List U8 :=
  t.trace.filterMap fun e =>
    match e with
    | .read8 .own _ v => some v
    | .write8 .own _ v => some v
    | _ => none

def hz1000 : F64 := 0x408F400000000000
def hz50M : F64 := 0x4187D78400000000
def quarter : F64 := 0x3FD0000000000000
def half : F64 := 0x3FE0000000000000
def oneAndHalf : F64 := 0x3FF8000000000000
def nan : F64 := 0x7FF8000000000000
def inf : F64 := 0x7FF0000000000000

/-! ## Well-formedness: each check refuses a term -/

theorem test_wellFormed_refuses_misaligned_base :
    (Instr.new 0x00030002 (mkRat 1 100)).wellFormed = false := by decide
theorem test_wellFormed_refuses_overflowing_base :
    (Instr.new 0xFFFFFFFFFFFFFFF4 (mkRat 1 100)).wellFormed = false := by decide
theorem test_wellFormed_refuses_negative_tolerance :
    (Instr.new 0x00030000 (mkRat (-1) 100)).wellFormed = false := by decide
theorem test_wellFormed_admits_top_base :
    (Instr.new 0xFFFFFFFFFFFFFFF0 (mkRat 0 1)).wellFormed = true := by decide

/-! ## Decoding: words written out from R53 to R56 (selector first, operands after it) -/

theorem test_decode_bus :
    decode [0b00010000] = .ok (.read16Period, []) ∧
    decode [0b00110000, 0xA8, 0x61] = .ok (.write16Period 0x61A8, []) ∧
    decode [0b00010100] = .ok (.read16Duty, []) ∧
    decode [0b00110100, 0x6A, 0x18] = .ok (.write16Duty 0x186A, []) ∧
    decode [0b00001000] = .ok (.read8Control, []) ∧
    decode [0b00101000, 0x16] = .ok (.write8Control 0x16, []) ∧
    decode [0b00011100] = .ok (.read16Clock, []) ∧
    decode [0b00111100, 0xE2, 0x00] = .ok (.write16Clock 0x00E2, []) := by
  refine ⟨?_, ?_, ?_, ?_, ?_, ?_, ?_, ?_⟩ <;> rfl

theorem test_decode_registerView :
    decode [0x40] = .ok (.readPeriod, []) ∧
    decode [0x41, 0xF0, 0x00] = .ok (.writePeriod 240, []) ∧
    decode [0x42] = .ok (.readDuty, []) ∧
    decode [0x43, 0x80, 0x00] = .ok (.writeDuty 128, []) ∧
    decode [0x44] = .ok (.readClock, []) ∧
    decode [0x45, 0x00, 0xF0] = .ok (.writeClock 61440, []) ∧
    decode [0x46] = .ok (.readControl, []) ∧
    decode [0x47, 0x1E] = .ok (.writeControl 0x1E, []) ∧
    decode [0x48, 7] = .ok (.setBit .resetCounter, []) ∧
    decode [0x49, 2] = .ok (.clearBit .pwmStart, []) ∧
    decode [0x4A, 5] = .ok (.testBit .interrupt, []) := by
  refine ⟨?_, ?_, ?_, ?_, ?_, ?_, ?_, ?_, ?_, ?_, ?_⟩ <;> rfl

theorem test_decode_controller :
    decode [0x81, 1] = .ok (.start true, []) ∧ decode [0x82] = .ok (.stop, []) ∧
    decode [0x83] = .ok (.resetCounter, []) ∧
    decode [0x84, 0] = .ok (.selectClockSource false, []) ∧
    decode [0x85] = .ok (.interruptOccurred, []) ∧
    decode [0x86] = .ok (.acknowledgeInterrupt, []) := by
  refine ⟨?_, ?_, ?_, ?_, ?_, ?_⟩ <;> rfl

/-- `configure(1000.0, 0.25, 50000000.0)`, the call of P1 step 2. -/
theorem test_decode_configure :
    decode [0x80, 0, 0, 0, 0, 0, 0x40, 0x8F, 0x40, 0, 0, 0, 0, 0, 0, 0xD0, 0x3F,
      0, 0, 0, 0, 0x84, 0xD7, 0x87, 0x41] = .ok (.configure hz1000 quarter hz50M, []) := by rfl

/-- `new(0x00030000)` of P1 step 1, with the default tolerance and with 101/10000 written out. -/
theorem test_decode_new :
    decode [0x87, 0, 0, 3, 0, 0, 0, 0, 0, 0] = .ok (.new 0x00030000 (mkRat 1 100), []) ∧
    decode [0x87, 0, 0, 3, 0, 0, 0, 0, 0, 1, 101, 0x90, 0x4E] =
      .ok (.new 0x00030000 (mkRat 101 10000), []) := by
  refine ⟨?_, ?_⟩ <;> rfl

theorem test_decode_event :
    decode [0b11000000] = .ok (.hwCycleComplete, []) ∧
    decode [0b11000001] = .ok (.hwResetAutoClear, []) := by
  refine ⟨?_, ?_⟩ <;> rfl

/-- R60: a bus selector that is not admitted, a bit index 6, an unlisted selector; a `bool` that is neither. -/
theorem test_decode_rejects_by_name :
    decode [0x18] = .error (.notAdmitted false true 8) ∧
    decode [0x48, 6] = .error (.badBitIndex 6) ∧ decode [0x4A, 8] = .error (.badBitIndex 8) ∧
    decode [0x4B] = .error (.invalidSelector 0x4B) ∧
    decode [0x88] = .error (.invalidSelector 0x88) ∧
    decode [0xC2] = .error (.invalidSelector 0xC2) ∧
    decode [0x81, 2] = .error (.badBool 2) ∧ decode [0x30, 1] = .error .incomplete ∧
    decode [0x87, 0, 0, 3, 0, 0, 0, 0, 0, 1, 1, 0] = .error .zeroDenominator := by
  refine ⟨?_, ?_, ?_, ?_, ?_, ?_, ?_, ?_, ?_⟩ <;> rfl

theorem test_withFetchWord_runs_the_row :
    onNext (step (State.reset.withFetchWord 16 0x0748)) (fun t => t.control == 0x80) = true := by
  decide +kernel

/-! ## CONTROL and the bus (spec/95 section 2.1) -/

theorem test_controlWrite_table :
    controlWrite 0x00 0xFF = 0xDF ∧ controlWrite 0x00 0x20 = 0x00 ∧ controlWrite 0x20 0x00 = 0x20 ∧
    controlWrite 0x20 0x20 = 0x00 ∧ controlWrite 0x20 0xDF = 0xFF ∧ controlWrite 0xFF 0x00 = 0x20 ∧
    controlWrite 0xFF 0xFF = 0xDF ∧ controlWrite 0x36 0x36 = 0x16 ∧ controlWrite 0x36 0x12 = 0x32 ∧
    controlWrite 0x3E 0x0E = 0x2E ∧ controlWrite 0x1E 0x9E = 0x9E ∧ controlWrite 0x40 0x00 = 0x00 ∧
    controlWrite 0x00 0x40 = 0x40 := by decide

theorem test_write8Control_acknowledges : gives (.write8Control 0x36) (at_ 0x36) 0x16 = true := by
  decide
theorem test_read8Control_returns_all_bits :
    answers .read8Control (at_ 0x1E) (.ok (.u8 0x1E)) 0x1E = true := by decide
theorem test_write16Period_leaves_the_rest :
    onNext (exec (.write16Period 0xFFFF) { State.reset with duty := 7, clock := 9 })
      (fun t => t.period == 0xFFFF && t.duty == 7 && t.clock == 9) = true := by decide
theorem test_write16Duty_is_unclamped :
    onNext (exec (.write16Duty 200) { State.reset with period := 100 })
      (fun t => t.duty == 200 && t.period == 100) = true := by decide
theorem test_write16Clock_stores_zero :
    onNext (exec (.write16Clock 0) { State.reset with clock := 5 }) (fun t => t.clock == 0) = true := by
  decide

/-- `read16(0x08)`, `read8(0x00)`, `read16(0x02)`, `read16(0x10)` and a 32-bit access are not admitted. -/
theorem test_not_admitted :
    windowRegister 0x08 2 = none ∧ windowRegister 0x00 1 = none ∧ windowRegister 0x02 2 = none ∧
    windowRegister 0x10 2 = none ∧ windowRegister 0x00 4 = none ∧ windowRegister 0x0E 2 = none := by
  decide

/-- The unassigned bytes of R34. -/
theorem test_windowByte_holes :
    (List.range 16).filter (fun o => windowByte State.reset o == none) =
      [0x02, 0x03, 0x06, 0x07, 0x09, 0x0A, 0x0B, 0x0E, 0x0F] := by decide

/-! ## RegisterView (spec/95 section 2.3) -/

theorem test_setBit_keeps_reserved_and_interrupt :
    onNext (exec (.setBit .outputEnable) (at_ 0x60))
      (fun t => t.control == 0x70 && moved t == [0x60, 0x50]) = true := by decide
theorem test_setBit_interrupt_clears_it : gives (.setBit .interrupt) (at_ 0x20) 0x00 = true := by decide
theorem test_clearBit_start :
    onNext (exec (.clearBit .pwmStart) (at_ 0x76))
      (fun t => t.control == 0x72 && moved t == [0x76, 0x52]) = true := by decide
theorem test_clearBit_interrupt_does_nothing :
    gives (.clearBit .interrupt) (at_ 0x20) 0x20 = true := by decide
theorem test_testBit :
    answers (.testBit .interrupt) (at_ 0x36) (.ok (.bool true)) 0x36 = true ∧
    answers (.testBit .continuousOnce) (at_ 0x36) (.ok (.bool false)) 0x36 = true := by decide
theorem test_writeControl_keeps_interrupt :
    gives (.writeControl 0x1E) (at_ 0x20) 0x3E = true ∧
    gives (.writeControl 0x1E) (at_ 0x7E) 0x3E = true := by decide

/-! ## `configure` (spec/95 section 2.2) -/

theorem test_f64_values :
    f64Value hz1000 = .finite (mkRat 1000 1) ∧ f64Value quarter = .finite (mkRat 1 4) ∧
    f64Value 0x8000000000000000 = .finite 0 ∧ f64Value nan = .nan ∧ f64Value inf = .posInf ∧
    f64Value 0xFFF0000000000000 = .negInf ∧ f64Value 0xC08F400000000000 = .finite (mkRat (-1000) 1) ∧
    f64Value 1 = .finite (mkRat 1 (2 ^ 1074)) := by decide +kernel

theorem test_round_ties : roundHalfUp (99 / 2) = 50 ∧ roundHalfUp (1 / 2) = 1 ∧
    roundHalfUp (4999 / 10000) = 0 ∧ roundHalfUp (3495093 / 100) = 34951 := by decide +kernel

/-- The rows for D = 25000, SRB's own inputs, 49.5 (tie and inclusive bound), 131071/2 (a tie that does not
fit), 65535 and the skipped candidate at `TOL` = 101/10000. -/
theorem test_search_rows :
    search 25000 (1 / 100) = some (1, 25000) ∧ search (99 / 2) (1 / 100) = some (1, 50) ∧
    search (131071 / 2) (1 / 100) = some (2, 32768) ∧ search 65535 (1 / 100) = some (1, 65535) ∧
    search (494999 / 10000) (101 / 10000) = some (2, 25) ∧ search 80000 0 = some (2, 40000) := by
  decide +kernel

theorem test_search_source_example :
    search (divisor 50000000 (1688 / 1000)) (1 / 100) = some (226, 65533) ∧
    dutyFor (128 / 240) 65533 = 34951 := by decide +kernel

/-- P1 step 2. -/
theorem test_configure_plain :
    onNext (exec (.configure hz1000 quarter hz50M) State.reset)
      (fun t => t.period == 25000 && t.duty == 6250 && t.clock == 1 && t.result == .ok .unit &&
        ownShapes t.trace == [r8, w16 0, w16 4, w16 0xC]) = true := by decide +kernel

/-- Priority (spec/95 section 2.6), Running; and NaN in every argument. -/
theorem test_configure_priority :
    answers (.configure 0 oneAndHalf hz50M) (at_ 0x1E) (.err .invalidDutyRatio) 0x1E = true ∧
    answers (.configure 0 half hz50M) (at_ 0x1E) (.err .frequencyUnachievable) 0x1E = true ∧
    answers (.configure hz1000 half hz50M) (at_ 0x1E) (.err .mustBeStoppedFirst) 0x1E = true ∧
    answers (.configure nan nan nan) State.reset (.err .invalidDutyRatio) 0x00 = true ∧
    answers (.configure inf half hz50M) State.reset (.err .frequencyUnachievable) 0x00 = true := by
  decide +kernel

/-! ## Control sequencing (spec/95 section 2.4): reads and writes in order, and CONTROL after -/

theorem test_start_continuous_from_61 :
    onNext (exec (.start true) (at_ 0x61)) (fun t => t.control == 0x7F &&
      moved t == [0x61, 0x51, 0x71, 0x53, 0x73, 0x5B, 0x7B, 0x5F]) = true := by decide
theorem test_start_once_while_continuous :
    onNext (exec (.start false) (at_ 0x1E)) (fun t => t.control == 0x16 &&
      moved t == [0x1E, 0x1E, 0x1E, 0x1E, 0x1E, 0x16, 0x16, 0x16]) = true := by decide
theorem test_stop_keeps_interrupt :
    onNext (exec .stop (at_ 0x3E)) (fun t => t.control == 0x2A &&
      moved t == [0x3E, 0x0E, 0x2E, 0x0A]) = true := by decide
theorem test_resetCounter :
    onNext (exec .resetCounter (at_ 0x3E)) (fun t => t.control == 0x3E &&
      moved t == [0x3E, 0x9E, 0xBE, 0x1E]) = true := by decide
theorem test_selectClockSource :
    answers (.selectClockSource true) (at_ 0x0A) (.ok .unit) 0x0B = true ∧
    answers (.selectClockSource true) (at_ 0x1F) (.err .mustBeStoppedFirst) 0x1F = true := by decide
theorem test_interruptOccurred :
    answers .interruptOccurred (at_ 0x3A) (.ok (.bool true)) 0x3A = true ∧
    answers .interruptOccurred (at_ 0x1E) (.ok (.bool false)) 0x1E = true := by decide
theorem test_acknowledge :
    gives .acknowledgeInterrupt (at_ 0x3A) 0x1A = true ∧
    gives .acknowledgeInterrupt (at_ 0xFF) 0xDF = true := by decide
theorem test_new :
    onNext (exec (.new 0x00030000 (mkRat 101 10000)) State.reset)
      (fun t => t.base == 0x00030000 && t.tol == mkRat 101 10000 && t.trace == []) = true := by decide

/-! ## Hardware events (spec/95 section 2.5) -/

theorem test_cycleComplete :
    gives .hwCycleComplete (at_ 0x1E) 0x3E = true ∧ gives .hwCycleComplete (at_ 0x16) 0x32 = true ∧
    gives .hwCycleComplete (at_ 0x04) 0x20 = true ∧ gives .hwCycleComplete (at_ 0x96) 0xB2 = true := by
  decide
theorem test_cycleComplete_not_enabled : gives .hwCycleComplete (at_ 0x12) 0x12 = true := by decide
theorem test_resetAutoClear :
    gives .hwResetAutoClear
      { at_ 0x9E with cfg := { Config.chosen with resetSelfClear := true } } 0x1E = true ∧
    gives .hwResetAutoClear (at_ 0x9E) 0x9E = true := by decide

/-- R113: the three degenerate configurations the registers show, each running (CONTROL bit 2); a plain pulse is
none; and `start` before any `configure` answers. -/
theorem test_degenerate :
    degenerate { at_ 0x1E with period := 240, duty := 0 } = true ∧
    degenerate { at_ 0x1E with period := 240, duty := 240 } = true ∧
    degenerate { at_ 0x0E with period := 240, duty := 128 } = true ∧
    degenerate { at_ 0x1E with period := 240, duty := 128 } = false ∧
    degenerate { at_ 0x1A with period := 240, duty := 240 } = false ∧
    answers (.start true) State.reset (.ok .unit) 0x1E = true := by decide

/-! ## Interleavings (spec/95 section 2.7) -/

theorem test_completion_inside_acknowledge :
    gives .acknowledgeInterrupt (atGaps 0x16 [[.event .cycleComplete]]) 0x36 = true ∧
    gives .acknowledgeInterrupt (atGaps 0x1E [[.event .cycleComplete]]) 0x3E = true ∧
    gives .acknowledgeInterrupt (atGaps 0x3E [[.event .cycleComplete]]) 0x1E = true := by decide
theorem test_completion_inside_stop :
    gives .stop (atGaps 0x16 [[.event .cycleComplete]]) 0x22 = true := by decide
theorem test_completion_inside_setBit :
    gives (.setBit .clockSelect) (atGaps 0x1E [[.event .cycleComplete]]) 0x3F = true := by decide
theorem test_lost_update_without_lock :
    onNext (exec .acknowledgeInterrupt
        { atGaps 0x3E [[.foreign .readControl, .foreign (.writeControl 0x0E)]] with
          cfg := { Config.chosen with exclusiveMutators := false } })
      (fun t => t.control == 0x1E &&
        t.trace == [.read8 .own 8 0x3E, .read8 .other 8 0x3E, .write8 .other 8 0x0E,
          .write8 .own 8 0x3E]) = true := by decide

/-! ## Witnesses: for each statement with hypotheses, operands and a state that meet all of them -/

/-- The state of a run without `MAPPED`, with the third transaction failing (spec/95 section 2.6). -/
def unmapped : State :=
  { State.reset with
    cfg := { Config.chosen with mapped := false }, busFaults := [false, false, true], duty := 7 }

/-- `MAPPED` holds in the reset state, with any `bit_index`, operand and rest: the hypotheses of
BusReadsReturnTheRegisterAndChangeNothing. -/
theorem witness_BusReads : State.reset.cfg.mapped = true := by decide
theorem witness_WideBusWrites : ∃ (s : State) (v : U16), s.cfg.mapped = true ∧ v = 0xFFFF :=
  ⟨State.reset, 0xFFFF, by decide, rfl⟩
theorem witness_ControlBusWrite : ∃ (s : State) (v : U8), s.cfg.mapped = true ∧ v.getLsbD 2 = true :=
  ⟨State.reset, 0x04, by decide, by decide⟩
theorem witness_RegisterViewWideReads : ∃ s : State, s.cfg.mapped = true ∧ s.period = 240 :=
  ⟨{ State.reset with period := 240 }, by decide, rfl⟩
theorem witness_RegisterViewWideWrites : ∃ (s : State) (v : U16), s.cfg.mapped = true ∧ v = 0 :=
  ⟨State.reset, 0, by decide, rfl⟩
theorem witness_RegisterViewControlAccessors :
    ∃ (s : State) (v : U8), s.cfg.mapped = true ∧ flag .interrupt s.control = true ∧ v = 0x1E :=
  ⟨at_ 0x20, 0x1E, by decide, by decide, rfl⟩
theorem witness_SetAndClearBit :
    ∃ (s : State) (i : BitIndex), s.cfg.mapped = true ∧ s.gaps = [] ∧ i = .interrupt :=
  ⟨at_ 0x20, .interrupt, by decide, by decide, rfl⟩
theorem witness_TestBit : ∃ (s : State) (i : BitIndex), s.cfg.mapped = true ∧ i = .resetCounter :=
  ⟨at_ 0x80, .resetCounter, by decide, rfl⟩

/-- AccessOutsideTheEightFaultsAndChangesNoRegister: below the window, in a hole, at a wrong width, past the end. -/
theorem witness_AccessOutsideTheEight :
    (0xFFF < ({ State.reset with base := 0x1000 } : State).base.toNat) ∧
    ((0x02 : Nat), 2) ∉ [(0x00, 2), (0x04, 2), (0x08, 1), (0x0C, 2)] ∧
    ((0x08 : Nat), 2) ∉ [(0x00, 2), (0x04, 2), (0x08, 1), (0x0C, 2)] ∧
    ((0x10 : Nat), 2) ∉ [(0x00, 2), (0x04, 2), (0x08, 1), (0x0C, 2)] := by decide

/-- Which way a step stops. -/
def stopsFault (o : Host.Outcome State Fault Refusal) : Bool :=
  match o with
  | .fault _ => true
  | .next _ => false
  | .refused _ => false

/-- Whether a step is refused for a given reason. -/
def stopsRefused (o : Host.Outcome State Fault Refusal) (r : Refusal) : Bool :=
  match o with
  | .refused q => q == r
  | .next _ => false
  | .fault _ => false

/-- UnlistedSelectorsFaultOrAreRefusedByName, each clause at the ends of its range. -/
theorem witness_UnlistedSelectors :
    (∀ sel ∈ [(0x00 : Byte), 0x3F], stopsFault (step { State.reset with inbox := [sel] }) = true) ∧
    (∀ sel ∈ [(0x4B : Byte), 0x7F, 0x88, 0xBF, 0xC2, 0xFF],
      stopsRefused (step { State.reset with inbox := [sel] }) (.invalidSelector sel) = true) := by
  decide

/-- BitIndexSixAndAboveSevenAreRefused: both clauses where they meet. -/
theorem witness_BitIndexRefused :
    stopsRefused (step { State.reset with inbox := [0x48, 6] }) (.bitIndexRefused 6) = true ∧
    stopsRefused (step { State.reset with inbox := [0x4A, 8] }) (.bitIndexRefused 8) = true ∧
    onNext (step { State.reset with inbox := [0x48, 5] }) (fun t => t.control == 0) = true ∧
    onNext (step { State.reset with inbox := [0x48, 7] }) (fun t => t.control == 0x80) = true := by
  decide

theorem witness_Round : (0 : ℚ) ≤ 99 / 2 ∧ (99 / 2 : ℚ) = ((49 : ℕ) : ℚ) + 1 / 2 := by norm_num

theorem witness_ErrorForms :
    (0 : ℚ) < 50000000 ∧ (0 : ℚ) < 1000 ∧ 1 ≤ 1 ∧
    fits (candidate (divisor 50000000 1000) 1) = true := by decide +kernel

/-- SearchFactsOnCandidatesAndRange, clause 2: D = 131071/2, first fitting prescaler 2. -/
theorem witness_SearchFacts :
    (0 : ℚ) < 131071 / 2 ∧ fits (candidate (131071 / 2) 2) = true ∧
    fits (candidate (131071 / 2) 1) = false ∧ (1 / 2 ^ 16 : ℚ) ≤ 1 / 100 ∧
    (0 : ℚ) < 1 / 4 ∧ (1 / 4 : ℚ) < 1 / 2 ∧ (65535 * (131071 / 2) : ℚ) ≤ 8589737985 / 2 := by
  decide +kernel

theorem witness_DutyLiesWithinThePeriod : (0 : ℚ) ≤ 1 / 3 ∧ (1 / 3 : ℚ) ≤ 1 := by norm_num

/-- The hypotheses of ConfigureAppliesTheTripleOnAStoppedChannel. -/
theorem witness_ConfigureApplies :
    State.reset.cfg.mapped = true ∧ State.reset.gaps = [] ∧
    flag .pwmStart State.reset.control = false ∧ f64Value hz1000 = .finite 1000 ∧
    f64Value quarter = .finite (1 / 4) ∧ f64Value hz50M = .finite 50000000 ∧ (0 : ℚ) ≤ 1 / 4 ∧
    (1 / 4 : ℚ) ≤ 1 ∧ (0 : ℚ) < 1000 ∧ (0 : ℚ) < 50000000 ∧
    search (50000000 / (2 * 1000)) State.reset.tol = some (1, 25000) := by decide +kernel

theorem witness_SuccessfulConfigure :
    State.reset.cfg.exclusiveMutators = true ∧
    onNext (exec (.configure hz1000 quarter hz50M)
      { State.reset with gaps := [[.event .cycleComplete], [.foreign .readControl]] })
      (fun t => t.result == .ok .unit) = true := by decide +kernel

theorem witness_FailedConfigure :
    onNext (exec (.configure hz1000 half hz50M) (at_ 0x1E))
      (fun t => t.result == .err .mustBeStoppedFirst &&
        t.trace == [.read8 .own 8 0x1E]) = true ∧
    onNext (exec (.configure hz1000 oneAndHalf hz50M) (at_ 0x1E))
      (fun t => t.result == .err .invalidDutyRatio && t.trace == []) = true := by decide +kernel

theorem witness_InvalidDutyRatio : f64Value oneAndHalf = .finite (3 / 2) ∧ ¬((3 / 2 : ℚ) ≤ 1) := by
  decide +kernel

theorem witness_FrequencyUnachievable :
    onNext (exec (.configure 0 half hz50M) State.reset)
      (fun t => t.result == .err .frequencyUnachievable && t.trace == []) = true := by decide +kernel

theorem witness_MustBeStoppedFirst :
    (at_ 0x04).cfg.mapped = true ∧
    answers (.selectClockSource false) (at_ 0x04) (.err .mustBeStoppedFirst) 0x04 = true ∧
    answers (.selectClockSource false) (at_ 0xFB) (.ok .unit) 0xFA = true := by decide

/-- The faulted state, where an operation ends in one. -/
def faulted (o : Host.Outcome State Fault Refusal) (p : State → Bool) : Bool :=
  match o with
  | .fault (.registerAccessFault left) => p left
  | .next _ => false
  | .refused _ => false

/-- AccessFaultEndsTheOperationAndKeepsEarlierWrites, second and third clause: `configure` failing at its third
transaction, with the outcome of spec/95 section 2.6. -/
theorem witness_AccessFault_configure :
    unmapped.cfg.mapped = false ∧ unmapped.busFaults = [false, false, true] ∧ unmapped.gaps = [] ∧
    flag .pwmStart unmapped.control = false ∧
    faulted (exec (.configure hz1000 half hz50M) unmapped) (fun left =>
      left.period == 25000 && left.duty == 7 && left.clock == 0) = true := by decide +kernel

/-- The same statement: `stop` failing at its last transaction, and `acknowledge_interrupt` ended by the fault of
another context's read between its two transactions (R127 b, any transaction at all). -/
theorem witness_AccessFault_elsewhere :
    onNext (exec .stop (at_ 0x3E)) (fun t => t.trace ==
      [.read8 .own 8 0x3E, .write8 .own 8 0x0E] ++ [.read8 .own 8 0x2E, .write8 .own 8 0x0A]) = true ∧
    faulted (exec .stop { unmapped with control := 0x3E, busFaults := [false, false, false, true] })
      (fun left => left.control == 0x2E && left.busFaults == [] &&
        left.trace == [.read8 .own 8 0x3E, .write8 .own 8 0x0E, .read8 .own 8 0x2E,
          .faulted .own 8 1]) = true ∧
    faulted (exec .acknowledgeInterrupt { unmapped with
        control := 0x36, gaps := [[.foreign (.readWide .duty)]], busFaults := [false, true] })
      (fun left => left.control == 0x36 &&
        left.trace == [.read8 .own 8 0x36, .faulted .other 4 2]) = true := by decide

theorem witness_Start : ∃ s : State, s.cfg.mapped = true ∧ s.gaps = [] ∧ s.control = 0x61 :=
  ⟨at_ 0x61, by decide, by decide, rfl⟩
theorem witness_Stop : ∃ s : State, s.cfg.mapped = true ∧ s.gaps = [] ∧ s.control = 0x3E :=
  ⟨at_ 0x3E, by decide, by decide, rfl⟩

/-- ResetCounterPulsesBitSevenUnderBothPolicies: both kinds of hardware (spec/95 section 2.4). -/
theorem witness_ResetCounter :
    (at_ 0x1E).cfg.mapped = true ∧ (at_ 0x1E).gaps = [] ∧
    gives .resetCounter { atGaps 0x1E [[], [.event .resetAutoClear]] with
      cfg := { Config.chosen with resetSelfClear := true } } 0x1E = true := by decide

theorem witness_SelectClockSource :
    (at_ 0x0A).cfg.mapped = true ∧ (at_ 0x0A).gaps = [] ∧ flag .pwmStart (at_ 0x0A).control = false ∧
    flag .pwmStart (at_ 0x1E).control = true := by decide
theorem witness_InterruptOccurred : (at_ 0x3A).cfg.mapped = true ∧ (at_ 0x3A).control.getLsbD 5 = true := by
  decide

/-- AcknowledgeClearsOnlyTheInterruptItRead, second and third clause (spec/95 section 2.7). -/
theorem witness_Acknowledge :
    (atGaps 0x1E [[.event .cycleComplete]]).cfg.exclusiveMutators = true ∧
    flag .interrupt (atGaps 0x1E [[.event .cycleComplete]]).control = false ∧
    onNext (exec .acknowledgeInterrupt (atGaps 0x1E [[.event .cycleComplete]]))
      (fun t => t.trace.contains (.event .cycleComplete)) = true ∧
    onNext (exec .acknowledgeInterrupt (atGaps 0x3E [[.event .cycleComplete]]))
      (fun t => t.trace.contains (.event .cycleComplete) && t.control == 0x1E) = true := by decide

/-- ConstructionStoresBaseAndToleranceOnly: the top admitted base, and each refused clause at its edge. -/
theorem witness_Construction :
    onNext (exec (.new 0xFFFFFFFFFFFFFFF0 0) State.reset) (fun t => t.tol == 0) = true ∧
    stopsRefused (exec (.new 0xFFFFFFFFFFFFFFF1 0) State.reset)
      .constructorArgumentNotAdmitted = true ∧
    stopsRefused (exec (.new 0xFFFFFFFFFFFFFFF4 0) State.reset)
      .constructorArgumentNotAdmitted = true ∧
    stopsRefused (exec (.new 0 (mkRat (-1) 100)) State.reset)
      .constructorArgumentNotAdmitted = true := by decide

theorem witness_CycleCompletion :
    (at_ 0x16).control.getLsbD 2 = true ∧ (at_ 0x16).control.getLsbD 3 = false ∧
    (at_ 0x1E).control.getLsbD 2 = true ∧ (at_ 0x1E).control.getLsbD 3 = true := by decide
theorem witness_AutoClear :
    ({ at_ 0x9E with cfg := { Config.chosen with resetSelfClear := true } } : State).cfg.resetSelfClear = true ∧
    (at_ 0x9E).control.getLsbD 7 = true := by decide
theorem witness_DisabledEvents :
    (at_ 0x12).control.getLsbD 2 = false ∧ (at_ 0x9E).cfg.resetSelfClear = false ∧
    (at_ 0x1E).control.getLsbD 7 = false := by decide

theorem witness_EveryOperationCompletes :
    (Instr.new 0x00030000 (mkRat 1 100)).wellFormed = true ∧ State.reset.cfg.mapped = true := by decide

/-- InterruptIsSetOnlyByCompletionAndClearedOnlyByOne: both directions happen. -/
theorem witness_InterruptSetAndCleared :
    gives .hwCycleComplete (at_ 0x1E) 0x3E = true ∧
    onNext (exec .acknowledgeInterrupt (at_ 0x3E))
      (fun t => !flag .interrupt t.control && t.trace.any acknowledges) = true := by decide

/-- SequencingNeverLosesAnInterrupt: an interrupt raised inside `stop`, and one pending before it. -/
theorem witness_SequencingNeverLoses :
    (atGaps 0x16 [[.event .cycleComplete]]).cfg.exclusiveMutators = true ∧
    onNext (exec .stop (atGaps 0x16 [[.event .cycleComplete]]))
      (fun t => t.trace.contains (.event .cycleComplete) && flag .interrupt t.control) = true ∧
    onNext (exec .stop (at_ 0x3E)) (fun t => flag .interrupt t.control) = true := by decide

theorem witness_ReservedBit :
    (at_ 0x61).cfg.exclusiveMutators = true ∧ blindControlWrite (.start true) = false ∧
    onNext (exec (.start true) (at_ 0x61)) (fun t => reservedBit t.control) = true := by decide

theorem witness_StartEndsRunning :
    onNext (exec (.start false) (atGaps 0x16 [[.event .cycleComplete]]))
      (fun t => channelState t.control == .running .once) = true ∧
    onNext (exec .stop (atGaps 0x16 [[], [.event .cycleComplete]]))
      (fun t => channelState t.control == .stopped) = true := by decide

/-- StartStopSequencesKeepTheWaveformAndClockSource: a run of one operation. -/
theorem witness_StartStopSequences :
    ∃ (st : ℕ → State) (op : ℕ → Instr), (st 0).cfg.exclusiveMutators = true ∧
      (∀ k < 1, exec (op k) (st k) = .next (st (k + 1))) ∧ (∀ k < 1, op k = .stop) := by
  obtain ⟨t, ht⟩ : ∃ t, exec .stop (at_ 0x1E) = .next t := ⟨_, rfl⟩
  refine ⟨fun k => if k = 0 then at_ 0x1E else t, fun _ => .stop, rfl, ?_, fun _ _ => rfl⟩
  intro k hk
  obtain rfl : k = 0 := by omega
  exact ht

/-- StartIsIdempotentUpToHardwareEvents: once mode, a completion between the two calls. -/
theorem witness_StartIdempotent :
    onNext (exec (.start false) (at_ 0x00)) (fun t =>
      t.control == 0x16 &&
        onNext (exec (.start false) ([HwEvent.cycleComplete].foldl (fun x e => hwEvent e x) t))
          (fun w => w.control == 0x36)) = true := by decide

theorem witness_SequencingFrame :
    (at_ 0x1E).cfg.exclusiveMutators = true ∧
    onNext (exec (.start false) (at_ 0x1E)) (fun t => t.control == 0x16) = true := by decide

theorem witness_ParametersNeverChange :
    onNext (step { State.reset with inbox := [0x82] }) (fun t => t.cfg == Config.chosen) = true := by
  decide

theorem witness_ControllerFieldsAdmitted :
    controllerFieldsAdmitted State.reset = true ∧
    onNext (step { State.reset with inbox := [0x87, 0, 0, 3, 0, 0, 0, 0, 0, 0] })
      (fun t => t.base == 0x00030000) = true := by decide

theorem witness_ControllerInvariant :
    rawWrite .resetCounter = false ∧
    controllerInvariant { at_ 0x1E with period := 240, duty := 128, clock := 61440 } = true ∧
    onNext (exec .resetCounter { at_ 0x1E with period := 240, duty := 128, clock := 61440 })
      controllerInvariant = true := by decide

/-- A run that completes one once-mode cycle and then polls for ever. -/
def pollRun : ℕ → State
  | 0 => at_ 0x16
  | 1 => { at_ 0x32 with trace := [.event .cycleComplete] }
  | _ + 2 => { at_ 0x32 with trace := [.read8 .own 8 0x32], result := .ok (.bool true) }

def pollOps : ℕ → Instr
  | 0 => .hwCycleComplete
  | _ + 1 => .interruptOccurred

theorem poll_step (s : State) (h : s.cfg.mapped = true) (hc : s.control = 0x32) :
    exec .interruptOccurred s = .next { s with
      trace := [.read8 .own 8 0x32], result := .ok (.bool true) } := by
  have h1 : testBit .interrupt { s with trace := [] } =
      .ok (true, { s with trace := [.read8 .own 8 0x32] }) := by
    simp only [testBit]
    rw [read8_mapped (s := { s with trace := [] }) h]
    simp only [andThen_ok, hc, log]
    rfl
  exact performOk_of_ok h1

/-- PolledOnceModeChannelEventuallyStops, both clauses. -/
theorem witness_PolledOnceMode :
    IsRun pollRun pollOps ∧ ClockTicks pollRun ∧ (∀ n, pollOrEvent (pollOps n) = true) ∧
      channelState (pollRun 0).control = .running .once ∧
      (pollRun 0).cfg.exclusiveMutators = true ∧ flag .continuousOnce (pollRun 0).control = false ∧
      ∀ n, keepsOnceMode (pollOps n) = true := by
  refine ⟨?_, ?_, ?_, by decide, by decide, by decide, ?_⟩
  · intro n
    refine ⟨[], [], ?_⟩
    match n with
    | 0 => rfl
    | 1 => exact poll_step _ rfl rfl
    | _ + 2 => exact poll_step _ rfl rfl
  · intro n h
    exact absurd (h (n + 2) (by omega) 0x32 (List.mem_cons_self ..)) (by decide)
  · intro n
    match n with
    | 0 => rfl
    | _ + 1 => rfl
  · intro n
    match n with
    | 0 => rfl
    | _ + 1 => rfl

/-- The fairness premise does not stop a once-mode channel at the end of an operation: a completion inside each
`acknowledge_interrupt` is undone by its write-back (R144), and the premise holds all the same. -/
theorem test_ackLoop_is_fair :
    onNext (exec .acknowledgeInterrupt (atGaps 0x16 [[.event .cycleComplete]])) (fun t =>
      channelState t.control == .running .once && t.trace.contains (.event .cycleComplete) &&
      (controlsDuring 0x16 t.trace).any (fun c => channelState c == .stopped)) = true := by decide

theorem witness_OnceCompletionInsideAcknowledge :
    (atGaps 0x16 [[.event .cycleComplete]]).cfg.mapped = true ∧
    channelState (atGaps 0x16 [[.event .cycleComplete]]).control = .running .once ∧
    channelState (atGaps 0x36 [[.event .cycleComplete]]).control = .running .once ∧
    gives .acknowledgeInterrupt (atGaps 0x36 [[.event .cycleComplete]]) 0x16 = true := by decide

theorem witness_UpdateInsideAcknowledge :
    ∀ b : Bool, ∃ s : State, s.cfg.mapped = true ∧ s.control = 0x3E ∧ s.cfg.exclusiveMutators = b ∧
      s.gaps = [[.foreign .readControl, .foreign (.writeControl 0x0E)]] := by
  intro b
  exact ⟨{ atGaps 0x3E [[.foreign .readControl, .foreign (.writeControl 0x0E)]] with
    cfg := { Config.chosen with exclusiveMutators := b } }, rfl, rfl, rfl, rfl⟩

/-- OutputFormulasAgree: SRB's example triple, and each clause. -/
theorem witness_OutputFormulas :
    onTime 50000000 { State.reset with period := 240, duty := 128, clock := 61440 } =
      some (3145728 / 10000000) ∧
    dutyCycle { State.reset with period := 240, duty := 128 } = some (128 / 240) ∧
    dutyCycle { State.reset with period := 1, duty := 2 } = none ∧
    outputFrequency 50000000 { State.reset with period := 25000, clock := 1 } = some 1000 ∧
    outputFrequency 50000000 { State.reset with period := 25000, clock := 0 } = none ∧
    onTime 50000000 { State.reset with period := 1, duty := 2, clock := 1 } = none ∧
    outputFrequency 0 { State.reset with period := 1, clock := 1 } = some 0 ∧
    cycleTime 0 { State.reset with period := 1, clock := 1 } = none := by decide +kernel

theorem witness_DecodeEncode :
    (Instr.configure hz1000 quarter hz50M).wellFormed = true ∧
    decode (encode (.configure hz1000 quarter hz50M)) = .ok (.configure hz1000 quarter hz50M, []) := by
  exact ⟨by decide, rfl⟩
theorem witness_SelectorsName : decode [0x82, 0x30] = .ok (.stop, [0x30]) := by rfl
theorem witness_StepRuns :
    onNext (step { State.reset with inbox := [0x47, 0x5E, 0xC0] })
      (fun t => t.control == 0x5E && t.inbox == [0xC0]) = true := by decide

end Sys2Proof.Tests
end

section
/-! PROOFS. What the channel state is, by the bits of CONTROL it reads (spec/10_state.md R27). -/

namespace Sys2Proof.Machine

theorem flag_pwmStart (c : U8) : flag .pwmStart c = c.getLsbD 2 := rfl
theorem flag_continuousOnce (c : U8) : flag .continuousOnce c = c.getLsbD 3 := rfl

/-- PWM_START 0 hides the mode bit. -/
theorem channelState_of_not_started {c : U8} (hstart : flag .pwmStart c = false) :
    channelState c = .stopped := by
  simp [channelState, hstart]

/-- PWM_START 1 leaves the mode bit to decide. -/
theorem channelState_of_started {c : U8} (hstart : flag .pwmStart c = true) :
    channelState c = .running (runModeOfBool (flag .continuousOnce c)) := by
  simp [channelState, hstart]

/-- Settles O4, from the channel state with PWM_START 0 and with PWM_START 1. -/
theorem channelStateIsReadFromStartAndModeBits :
    Obligations.ChannelStateIsReadFromStartAndModeBits := by
  intro c
  rw [← flag_pwmStart, ← flag_continuousOnce]
  refine ⟨channelState_of_not_started, fun hstart hmode => ?continuous, fun hstart hmode => ?once⟩
  case continuous => rw [channelState_of_started hstart, hmode]; rfl
  case once => rw [channelState_of_started hstart, hmode]; rfl

end Sys2Proof.Machine
end

section
/-! PROOFS. What a write to CONTROL stores, bit by bit (spec/40_bus_transactions.md R63). -/

namespace Sys2Proof.Machine

/-- The mask of R63 that is taken from the old value has bit 5 and no other. -/
theorem getLsbD_interruptMask (k : Nat) : (0x20#8).getLsbD k = decide (5 = k) := by
  rw [show 0x20#8 = BitVec.twoPow 8 5 by decide, BitVec.getLsbD_twoPow]
  simp

/-- The mask of R63 that is taken from the written value has every bit of CONTROL but bit 5. -/
theorem getLsbD_storedMask (k : Nat) : (0xDF#8).getLsbD k = (decide (k < 8) && !decide (5 = k)) := by
  rw [show 0xDF#8 = ~~~0x20#8 by decide, BitVec.getLsbD_not, getLsbD_interruptMask]

/-- Bit 5 is write-1-to-clear. -/
theorem controlWrite_interrupt (c v : U8) :
    (controlWrite c v).getLsbD 5 = (c.getLsbD 5 && !v.getLsbD 5) := by
  simp [controlWrite]

/-- Every other bit is stored as written. -/
theorem controlWrite_stored (c v : U8) {k : Nat} (hk : k ≠ 5) :
    (controlWrite c v).getLsbD k = v.getLsbD k := by
  have hwidth : v.getLsbD k = true → k < 8 := BitVec.lt_of_getLsbD
  simpa [controlWrite, getLsbD_interruptMask, getLsbD_storedMask, hk.symm] using hwidth

/-- Settles O3: bit 5 by the write-1-to-clear rule, every other bit as stored. -/
theorem controlWriteStoresEveryBitButClearsInterruptByOne :
    Obligations.ControlWriteStoresEveryBitButClearsInterruptByOne := by
  intro c v
  refine ⟨controlWrite_stored c v (by decide), controlWrite_stored c v (by decide),
    controlWrite_interrupt c v, fun k hk => controlWrite_stored c v (by omega), rfl, fun hclear => ?_⟩
  rw [controlWrite_interrupt, hclear, Bool.false_and]

end Sys2Proof.Machine
end

section
/-! PROOFS. The whole next state of an operation that is one read, under `MAPPED`
(spec/40_bus_transactions.md R64, R66, R68, R70). -/

namespace Sys2Proof.Machine

/-- One 16-bit read: the result and the record change. -/
theorem performOk_read16_mapped {s : State} (h : s.cfg.mapped = true) (r : WideReg) :
    performOk .u16 (read16 (wideOffset r)) s = .next { s with
      result := .ok (.u16 (wideGet r s)), trace := [.read16 .own (wideOffset r) (wideGet r s)] } := by
  rw [performOk_of_ok (read16_mapped (s := { s with trace := [] }) h r)]
  cases r <;> rfl

/-- One read of CONTROL: the result and the record change. -/
theorem performOk_read8_mapped {s : State} (h : s.cfg.mapped = true) :
    performOk .u8 (read8 controlOffset) s = .next { s with
      result := .ok (.u8 s.control), trace := [.read8 .own controlOffset s.control] } :=
  performOk_of_ok (read8_mapped (s := { s with trace := [] }) h)

/-- Settles O9: each bus read decodes from its selector and is one read of its register. -/
theorem busReadsReturnTheRegisterAndChangeNothing :
    Obligations.BusReadsReturnTheRegisterAndChangeNothing := by
  intro s rest h
  exact ⟨decode_read16Period rest, performOk_read16_mapped h .period,
    decode_read16Duty rest, performOk_read16_mapped h .duty,
    decode_read8Control rest, performOk_read8_mapped h,
    decode_read16Clock rest, performOk_read16_mapped h .clock⟩

end Sys2Proof.Machine
end

section
/-! PROOFS. The raw 16-bit getters of the RegisterView (spec/41_registerview.md R73, R75, R77): each is the one
read of its register. -/

namespace Sys2Proof.Machine

/-- Settles O12: each getter decodes from its selector and is one read of its register. -/
theorem registerViewWideReadsReturnTheRegister :
    Obligations.RegisterViewWideReadsReturnTheRegister := by
  intro s rest h
  exact ⟨decode_readPeriod rest, performOk_read16_mapped h .period,
    decode_readDuty rest, performOk_read16_mapped h .duty,
    decode_readClock rest, performOk_read16_mapped h .clock⟩

end Sys2Proof.Machine
end

section
/-! PROOFS. `round` of the spec (spec/42_configure_pipeline.md R89) is Mathlib's `round` on the rationals of at
least 0, so its nearness and its ties are the library's. -/

namespace Sys2Proof.Machine

/-- The natural number the model computes cuts nothing off: for `x ≥ 0` the floor is at least 0. -/
theorem intCast_roundHalfUp {x : ℚ} (hx : 0 ≤ x) : (roundHalfUp x : ℤ) = round x := by
  have hfloor : 0 ≤ ⌊x + 1 / 2⌋ := Int.floor_nonneg.mpr (by positivity)
  rw [roundHalfUp_eq_floor, round_eq, Int.toNat_of_nonneg hfloor]

theorem ratCast_roundHalfUp {x : ℚ} (hx : 0 ≤ x) : (roundHalfUp x : ℚ) = round x := by
  rw [← intCast_roundHalfUp hx, Int.cast_natCast]

theorem abs_sub_roundHalfUp_le {x : ℚ} (hx : 0 ≤ x) : |x - roundHalfUp x| ≤ 1 / 2 := by
  rw [ratCast_roundHalfUp hx]
  exact abs_sub_round x

/-- A tie goes up. -/
theorem roundHalfUp_natCast_add_half (k : ℕ) : roundHalfUp (k + 1 / 2) = k + 1 := by
  have hround : (roundHalfUp (k + 1 / 2) : ℤ) = k + 1 := by
    rw [intCast_roundHalfUp (by positivity), round_natCast_add, one_div, round_two_inv]
  exact_mod_cast hround

/-- Settles O19: for `x ≥ 0` the model rounds as Mathlib's `round` does, which has the three properties. -/
theorem roundIsNearestWithTiesUpward : Obligations.RoundIsNearestWithTiesUpward := by
  intro x hx
  refine ⟨?floor, abs_sub_roundHalfUp_le hx, ?tie⟩
  case floor => rw [intCast_roundHalfUp hx, round_eq]
  case tie =>
    rintro k rfl
    exact roundHalfUp_natCast_add_half k

end Sys2Proof.Machine
end

section
/-! PROOFS. When an operation ends in an `Err` (spec/60_exceptions.md R124 to R126): the outcomes
of `configure`'s computation, and the check of PWM_START that `configure` and `select_clock_source` share. -/

namespace Sys2Proof.Machine

/-! ## Which of its three outcomes the computation of `configure` has -/

/-- Line 1 of R85 passes. -/
def RatioValid (r : Num64) : Prop := ∃ q : ℚ, r = .finite q ∧ 0 ≤ q ∧ q ≤ 1

/-- Lines 2 to 4 of R85 pass. -/
def FrequencyAchievable (tol : ℚ) (f c : Num64) : Prop :=
  ∃ qf qc : ℚ, f = .finite qf ∧ 0 < qf ∧ c = .finite qc ∧ 0 < qc ∧
    (search (qc / (2 * qf)) tol).isSome = true

theorem ratioValid_iff {r : Num64} : RatioValid r ↔ ∃ q, dutyRatioValue r = some q := by
  simp [RatioValid, dutyRatioValue_eq_some]

theorem not_ratioValid_iff {r : Num64} : ¬RatioValid r ↔ dutyRatioValue r = none := by
  rw [ratioValid_iff, ← Option.isSome_iff_exists, Option.not_isSome_iff_eq_none]

theorem computeTriple_ok_iff {tol : ℚ} {f r c : Num64} :
    (∃ x, computeTriple tol f r c = .ok x) ↔ RatioValid r ∧ FrequencyAchievable tol f c := by
  simp only [computeTriple_eq_ok, dutyRatioValue_eq_some, positiveValue_eq_some]
  constructor
  · rintro ⟨x, q, qf, qc, hr, ⟨hf, hf0⟩, ⟨hc, hc0⟩, hsearch, -⟩
    exact ⟨⟨q, hr⟩, qf, qc, hf, hf0, hc, hc0, Option.isSome_iff_exists.mpr ⟨_, hsearch⟩⟩
  · rintro ⟨⟨q, hr⟩, qf, qc, hf, hf0, hc, hc0, hsome⟩
    obtain ⟨⟨p, P⟩, hsearch⟩ := Option.isSome_iff_exists.mp hsome
    exact ⟨⟨p, P, dutyFor q P⟩, q, qf, qc, hr, ⟨hf, hf0⟩, ⟨hc, hc0⟩, hsearch, rfl⟩

/-- The ratio alone decides which error the computation can end in (R128). -/
theorem computeTriple_error_cases {tol : ℚ} {f r c : Num64} {k : ConfigError}
    (h : computeTriple tol f r c = .error k) :
    (¬RatioValid r ∧ k = .invalidDutyRatio) ∨ (RatioValid r ∧ k = .frequencyUnachievable) := by
  rw [not_ratioValid_iff, ratioValid_iff]
  unfold computeTriple at h
  split at h
  next hr => exact .inl ⟨hr, by cases h; rfl⟩
  next q hr =>
    refine .inr ⟨⟨q, hr⟩, ?_⟩
    split at h
    · split at h <;> cases h
      rfl
    · cases h; rfl

theorem computeTriple_invalidDutyRatio_iff {tol : ℚ} {f r c : Num64} :
    computeTriple tol f r c = .error .invalidDutyRatio ↔ ¬RatioValid r := by
  constructor
  · intro h
    obtain ⟨hr, -⟩ | ⟨-, hk⟩ := computeTriple_error_cases h
    · exact hr
    · cases hk
  · intro hr
    simp [computeTriple, not_ratioValid_iff.mp hr]

theorem computeTriple_frequencyUnachievable_iff {tol : ℚ} {f r c : Num64} :
    computeTriple tol f r c = .error .frequencyUnachievable ↔
      RatioValid r ∧ ¬FrequencyAchievable tol f c := by
  constructor
  · intro h
    obtain ⟨-, hk⟩ | ⟨hr, -⟩ := computeTriple_error_cases h
    · cases hk
    · refine ⟨hr, fun hf => ?_⟩
      obtain ⟨x, hx⟩ := computeTriple_ok_iff.mpr ⟨hr, hf⟩
      cases h.symm.trans hx
  · rintro ⟨hr, hf⟩
    cases h : computeTriple tol f r c with
    | ok x => exact absurd (computeTriple_ok_iff.mp ⟨x, h⟩).2 hf
    | error k =>
      obtain ⟨hnr, -⟩ | ⟨-, rfl⟩ := computeTriple_error_cases h
      · exact absurd hr hnr
      · rfl

/-! ## Bodies that return no `Err` -/

/-- Whatever the body answers is an `Ok`. -/
def ReturnsOk (k : State → Bus Result) : Prop :=
  ∀ ⦃s t : State⦄ ⦃r : Result⦄, k s = .ok (r, t) → ∃ v, r = .ok v

theorem returnsOk_returnValue (v : Value) : ReturnsOk (returnValue v) := by
  intro s t r h
  cases h
  exact ⟨v, rfl⟩

theorem returnsOk_andThen {α : Type} (x : State → Bus α) {k : α → State → Bus Result}
    (hk : ∀ a, ReturnsOk (k a)) : ReturnsOk fun s => andThen (x s) k := by
  intro s t r h
  obtain ⟨a, u, -, hrest⟩ := andThen_cases h
  exact hk a hrest

theorem returnsOk_andThenGap {α : Type} (x : State → Bus α) {k : α → State → Bus Result}
    (hk : ∀ a, ReturnsOk (k a)) : ReturnsOk fun s => andThenGap (x s) k :=
  returnsOk_andThen x fun a => returnsOk_andThen gap fun _ => hk a

theorem returnsOk_applyTriple (x : Triple) : ReturnsOk (applyTriple x) :=
  returnsOk_andThenGap _ fun _ => returnsOk_andThenGap _ fun _ =>
    returnsOk_andThen _ fun _ => returnsOk_returnValue .unit

theorem performOk_result_ne_err {α : Type} {wrap : α → Value} {op : State → Bus α} {s t : State}
    (h : performOk wrap op s = .next t) (k : ConfigError) : t.result ≠ .err k := by
  obtain ⟨a, u, -, rfl⟩ := performOk_cases h
  simp

/-- An operation returns an `Err` iff its body does. -/
theorem perform_err_iff {op : State → Bus Result} {s : State} {k : ConfigError} :
    (∃ t, perform op s = .next t ∧ t.result = .err k) ↔
      ∃ u, op { s with trace := [] } = .ok (.err k, u) := by
  constructor
  · rintro ⟨t, hnext, hresult⟩
    obtain ⟨r, u, hop, rfl⟩ := perform_cases hnext
    obtain rfl : r = .err k := hresult
    exact ⟨u, hop⟩
  · rintro ⟨u, hop⟩
    exact ⟨_, perform_of_ok hop, rfl⟩

/-! ## The Stopped check -/

/-- One read of CONTROL, and the body only where PWM_START is 0 (line 6 of R85, R107). -/
def whenStopped (body : State → Bus Result) (s : State) : Bus Result :=
  andThen (testBit .pwmStart s) fun running s =>
    if running then raiseError .mustBeStoppedFirst s else body s

theorem testBit_mapped {s : State} (h : s.cfg.mapped = true) (i : BitIndex) :
    testBit i s = .ok (flag i s.control, log (.read8 .own controlOffset s.control) s) := by
  simp [testBit, read8_mapped h]

theorem testBit_cases {i : BitIndex} {s t : State} {b : Bool} (h : testBit i s = .ok (b, t)) :
    b = flag i s.control ∧
      ∃ bf, t = log (.read8 .own controlOffset s.control) { s with busFaults := bf } := by
  obtain ⟨c, u, hread, hrest⟩ := andThen_cases h
  obtain ⟨rfl, bf, rfl⟩ := read8_cases hread
  cases hrest
  exact ⟨rfl, bf, rfl⟩

theorem whenStopped_of_started {s : State} (h : s.cfg.mapped = true)
    (hstart : flag .pwmStart s.control = true) (body : State → Bus Result) :
    whenStopped body s =
      .ok (.err .mustBeStoppedFirst, log (.read8 .own controlOffset s.control) s) := by
  simp [whenStopped, testBit_mapped h, hstart, raiseError]

/-- A body that returns no `Err` leaves the check as the one source of an `Err`, whatever the premises. -/
theorem whenStopped_err_cases {body : State → Bus Result} (hbody : ReturnsOk body) {s t : State}
    {k : ConfigError} (h : whenStopped body s = .ok (.err k, t)) :
    flag .pwmStart s.control = true ∧ k = .mustBeStoppedFirst := by
  obtain ⟨running, u, htest, hrest⟩ := andThen_cases h
  obtain ⟨rfl, -⟩ := testBit_cases htest
  split at hrest
  next hstart => cases hrest; exact ⟨hstart, rfl⟩
  next => obtain ⟨v, hv⟩ := hbody hrest; cases hv

/-- Under `MAPPED` an operation that is such a check and its body ends in `MustBeStoppedFirst` iff PWM_START
is 1. -/
theorem perform_whenStopped_iff {body : State → Bus Result} (hbody : ReturnsOk body) {s : State}
    (h : s.cfg.mapped = true) :
    (∃ t, perform (whenStopped body) s = .next t ∧ t.result = .err .mustBeStoppedFirst) ↔
      flag .pwmStart s.control = true := by
  rw [perform_err_iff]
  constructor
  · rintro ⟨u, hu⟩
    exact (whenStopped_err_cases hbody hu).1
  · intro hstart
    exact ⟨_, whenStopped_of_started (s := { s with trace := [] }) h hstart body⟩

/-- With PWM_START 1 the one read of the check is all that happens (R126). -/
theorem perform_whenStopped_of_started {s : State} (h : s.cfg.mapped = true)
    (hstart : flag .pwmStart s.control = true) (body : State → Bus Result) :
    perform (whenStopped body) s = .next { s with
      result := .err .mustBeStoppedFirst, trace := [.read8 .own 0x08 s.control] } :=
  perform_of_ok (whenStopped_of_started (s := { s with trace := [] }) h hstart body)

/-! ## `select_clock_source` -/

/-- What `select_clock_source` does once it has found the channel Stopped (R107). -/
def clockSourceBody (external : Bool) (s : State) : Bus Result :=
  andThen (gap s) fun _ s =>
  andThen
    (match clockSourceOfBool external with
      | .external => setBit .clockSelect s
      | .internal => clearBit .clockSelect s) fun _ s =>
  returnValue .unit s

theorem returnsOk_clockSourceBody (e : Bool) : ReturnsOk (clockSourceBody e) :=
  returnsOk_andThen _ fun _ => returnsOk_andThen _ fun _ => returnsOk_returnValue .unit

theorem exec_selectClockSource (e : Bool) (s : State) :
    exec (.selectClockSource e) s = perform (whenStopped (clockSourceBody e)) s := rfl

/-! ## `configure` -/

/-- What `configure` does with a triple once it has found the channel Stopped (lines 7 to 9 of R85). -/
def configureBody (x : Triple) (s : State) : Bus Result :=
  andThen (gap s) fun _ s => applyTriple x s

theorem returnsOk_configureBody (x : Triple) : ReturnsOk (configureBody x) :=
  returnsOk_andThen _ fun _ => returnsOk_applyTriple x

section
variable {f r c : F64} {s : State}

/-- An error of the computation ends `configure` before any transaction (R128, R129). -/
theorem exec_configure_of_error {k : ConfigError}
    (h : computeTriple s.tol (f64Value f) (f64Value r) (f64Value c) = .error k) :
    exec (.configure f r c) s = .next { s with result := .err k, trace := [] } := by
  have hop : configureOp (f64Value f) (f64Value r) (f64Value c) { s with trace := [] } =
      .ok (.err k, { s with trace := [] }) := by
    simp [configureOp, h, raiseError]
  exact perform_of_ok hop

/-- Once the computation has answered, what is left of `configure` is the check and the three writes. -/
theorem exec_configure_of_ok {x : Triple}
    (h : computeTriple s.tol (f64Value f) (f64Value r) (f64Value c) = .ok x) :
    exec (.configure f r c) s = perform (whenStopped (configureBody x)) s := by
  have hop : configureOp (f64Value f) (f64Value r) (f64Value c) { s with trace := [] } =
      whenStopped (configureBody x) { s with trace := [] } := by
    simp [configureOp, h, whenStopped, configureBody]
  simp [exec, execConfigure, perform, hop]

/-- An `Err` other than `MustBeStoppedFirst` comes from the computation and from nowhere else. -/
theorem exec_configure_err_iff {k : ConfigError} (hk : k ≠ .mustBeStoppedFirst) :
    (∃ t, exec (.configure f r c) s = .next t ∧ t.result = .err k) ↔
      computeTriple s.tol (f64Value f) (f64Value r) (f64Value c) = .error k := by
  refine ⟨fun herr => ?_, fun h => ⟨_, exec_configure_of_error h, rfl⟩⟩
  cases h : computeTriple s.tol (f64Value f) (f64Value r) (f64Value c) with
  | ok x =>
    rw [exec_configure_of_ok h, perform_err_iff] at herr
    obtain ⟨u, hu⟩ := herr
    exact absurd (whenStopped_err_cases (returnsOk_configureBody x) hu).2 hk
  | error k' =>
    obtain ⟨t, hnext, hresult⟩ := herr
    rw [exec_configure_of_error h] at hnext
    cases hnext
    cases hresult
    rfl

/-- `MustBeStoppedFirst` comes from the check, which is reached when the computation has answered. -/
theorem exec_configure_mustBeStoppedFirst_iff (hmapped : s.cfg.mapped = true) :
    (∃ t, exec (.configure f r c) s = .next t ∧ t.result = .err .mustBeStoppedFirst) ↔
      flag .pwmStart s.control = true ∧
        ∃ x, computeTriple s.tol (f64Value f) (f64Value r) (f64Value c) = .ok x := by
  cases h : computeTriple s.tol (f64Value f) (f64Value r) (f64Value c) with
  | ok x =>
    rw [exec_configure_of_ok h, perform_whenStopped_iff (returnsOk_configureBody x) hmapped]
    simp
  | error k =>
    rw [exec_configure_of_error h]
    obtain ⟨-, rfl⟩ | ⟨-, rfl⟩ := computeTriple_error_cases h <;> simp

end

/-- Of the operations of software, only the two that check for Stopped can return an `Err`. -/
theorem exec_err_cases {i : Instr} {s t : State} {k : ConfigError} (hformat : i.format ≠ .event)
    (hnext : exec i s = .next t) (hresult : t.result = .err k) :
    (∃ e, i = .selectClockSource e) ∨ ∃ f r c, i = .configure f r c := by
  cases i
  case selectClockSource e => exact .inl ⟨e, rfl⟩
  case configure f r c => exact .inr ⟨f, r, c, rfl⟩
  case new base tol =>
    simp only [exec, execNew] at hnext
    split at hnext
    · obtain ⟨r, u, hop, rfl⟩ := perform_cases hnext
      cases hop
      cases hresult
    · cases hnext
  case hwCycleComplete => exact absurd rfl hformat
  case hwResetAutoClear => exact absurd rfl hformat
  all_goals exact absurd hresult (performOk_result_ne_err hnext k)

/-! ## The statements -/

/-- Settles O27: the error comes from the computation, which raises it on the ratio alone. -/
theorem invalidDutyRatioIffRatioOutsideUnitInterval :
    Obligations.InvalidDutyRatioIffRatioOutsideUnitInterval := by
  intro s f r c
  exact ⟨(exec_configure_err_iff (by decide)).trans computeTriple_invalidDutyRatio_iff,
    fun hratio => exec_configure_of_error (computeTriple_invalidDutyRatio_iff.mpr hratio)⟩

/-- Settles O28: the error comes from the computation, which raises it past a valid ratio. -/
theorem frequencyUnachievableIffDomainOrSearchFails :
    Obligations.FrequencyUnachievableIffDomainOrSearchFails := by
  intro s f r c
  exact ⟨(exec_configure_err_iff (by decide)).trans computeTriple_frequencyUnachievable_iff,
    fun herr => exec_configure_of_error ((exec_configure_err_iff (by decide)).mp herr)⟩

/-- Settles O29: both operations are one check of PWM_START before a body that returns no `Err`. -/
theorem mustBeStoppedFirstIffStartReadsOne : Obligations.MustBeStoppedFirstIffStartReadsOne := by
  intro s f r c e hmapped
  have hselect := perform_whenStopped_iff (returnsOk_clockSourceBody e) hmapped
  have hconfigure := exec_configure_mustBeStoppedFirst_iff (f := f) (r := r) (c := c) hmapped
  refine ⟨hselect, ?configure, ?frame, fun i t k => exec_err_cases⟩
  case configure =>
    rw [hconfigure, computeTriple_ok_iff]
    refine and_congr_right fun _ => ⟨?_, ?_⟩
    · rintro ⟨⟨qr, hr, h0, h1⟩, qf, qc, hf, hf0, hc, hc0, hsearch⟩
      exact ⟨qf, qr, qc, hf, hr, hc, h0, h1, hf0, hc0, hsearch⟩
    · rintro ⟨qf, qr, qc, hf, hr, hc, h0, h1, hf0, hc0, hsearch⟩
      exact ⟨⟨qr, hr, h0, h1⟩, qf, qc, hf, hf0, hc, hc0, hsearch⟩
  case frame =>
    rintro t (hnext | hnext) hresult
    · have hstart := hselect.mp ⟨t, hnext, hresult⟩
      rw [exec_selectClockSource, perform_whenStopped_of_started hmapped hstart] at hnext
      cases hnext
      rfl
    · obtain ⟨hstart, x, hx⟩ := hconfigure.mp ⟨t, hnext, hresult⟩
      rw [exec_configure_of_ok hx, perform_whenStopped_of_started hmapped hstart] at hnext
      cases hnext
      rfl

end Sys2Proof.Machine
end

section
/-! PROOFS. What every operation is made of: one transaction after another, with the hardware's events and the
transactions of other contexts between them (spec/20_memory.md R41, R44). A property of every operation is
proved once, by induction over this. -/

namespace Sys2Proof.Machine

open Safety

/-! ## One transaction -/

/-- The register a transaction reaches (R36). -/
def transactionReg : Transaction → Reg
  | .readWide r => .wide r
  | .writeWide r _ => .wide r
  | .readControl => .control
  | .writeControl _ => .control

/-- The offset of a register (R34). -/
def regOffset : Reg → Nat
  | .wide r => wideOffset r
  | .control => controlOffset

/-- The bytes of a register (R34). -/
def regBytes : Reg → Nat
  | .wide _ => 2
  | .control => 1

theorem windowRegister_reg (r : Reg) : windowRegister (regOffset r) (regBytes r) = some r := by
  cases r with
  | wide r => exact windowRegister_wide r
  | control => exact windowRegister_control

/-- The access of a transaction to the window. -/
def reach (who : Issuer) (x : Transaction) (s : State) : Bus Reg :=
  grant who (effectiveAddress (regOffset (transactionReg x)) s) (regBytes (transactionReg x)) s

/-- The entry a transaction leaves in the record. -/
def transactionEntry (who : Issuer) (x : Transaction) (s : State) : Entry :=
  match x with
  | .readWide r => .read16 who (wideOffset r) (wideGet r s)
  | .writeWide r v => .write16 who (wideOffset r) v
  | .readControl => .read8 who controlOffset s.control
  | .writeControl v => .write8 who controlOffset v

/-- What a transaction does to the registers. -/
def store (x : Transaction) (s : State) : State :=
  match x with
  | .readWide _ => s
  | .writeWide r v => wideSet r v s
  | .readControl => s
  | .writeControl v => controlSet v s

/-- One transaction as a whole: the access, the effect, the entry in the record. -/
def transact (who : Issuer) (x : Transaction) (s : State) : Bus Unit :=
  andThen (reach who x s) fun _ s => .ok ((), log (transactionEntry who x s) (store x s))

/-- A granted access reaches the register that was addressed, so what follows may take it as given. -/
theorem andThen_reach {β : Type} (who : Issuer) (x : Transaction) (s : State) (k : Reg → State → Bus β) :
    andThen (reach who x s) k = andThen (reach who x s) fun _ => k (transactionReg x) := by
  cases h : reach who x s with
  | error f => rfl
  | ok p =>
    obtain ⟨r, t⟩ := p
    obtain ⟨hr, -⟩ := grant_cases h
    rw [windowRegister_reg] at hr
    cases hr
    rfl

theorem andThen_assoc {α β γ : Type} (x : Bus α) (k : α → State → Bus β) (l : β → State → Bus γ) :
    andThen (andThen x k) l = andThen x fun a s => andThen (k a s) l := by
  cases x <;> rfl

theorem memRead_wide_eq (who : Issuer) (r : WideReg) (s : State) :
    memRead who (effectiveAddress (wideOffset r) s) 2 s =
      andThen (transact who (.readWide r) s) fun _ t => .ok (wideGet r t, t) := by
  rw [transact, andThen_assoc]
  exact (andThen_reach who (.readWide r) s _).trans (by simp [transactionReg, transactionEntry, store])

theorem memRead_control_eq (who : Issuer) (s : State) :
    memRead who (effectiveAddress controlOffset s) 1 s =
      andThen (transact who .readControl s) fun _ t => .ok (t.control.setWidth 16, t) := by
  rw [transact, andThen_assoc]
  exact (andThen_reach who .readControl s _).trans (by simp [transactionReg, transactionEntry, store])

theorem memWrite_wide_eq (who : Issuer) (r : WideReg) (v : U16) (s : State) :
    memWrite who (effectiveAddress (wideOffset r) s) 2 v s = transact who (.writeWide r v) s :=
  andThen_reach who (.writeWide r v) s _

theorem memWrite_control_eq (who : Issuer) (v : U8) (s : State) :
    memWrite who (effectiveAddress controlOffset s) 1 (v.setWidth 16) s =
      transact who (.writeControl v) s :=
  (andThen_reach who (.writeControl v) s _).trans
    (by simp [transact, transactionReg, transactionEntry, store])

theorem read16_eq (r : WideReg) (s : State) :
    read16 (wideOffset r) s =
      andThen (transact .own (.readWide r) s) fun _ t => .ok (wideGet r t, t) :=
  memRead_wide_eq .own r s

theorem read8_eq (s : State) :
    read8 controlOffset s = andThen (transact .own .readControl s) fun _ t => .ok (t.control, t) := by
  simp [read8, memRead_control_eq, andThen_assoc]

theorem write16_eq (r : WideReg) (v : U16) (s : State) :
    write16 (wideOffset r) v s = transact .own (.writeWide r v) s :=
  memWrite_wide_eq .own r v s

theorem write8_eq (v : U8) (s : State) :
    write8 controlOffset v s = transact .own (.writeControl v) s :=
  memWrite_control_eq .own v s

/-! ## Programs -/

/-- The state without the premise `MAPPED`, with the given choice of which transactions fault (R51). -/
def withFaults (busFaults : List Bool) (s : State) : State :=
  { s with cfg := { s.cfg with mapped := false }, busFaults := busFaults }

/-- What is made of transactions, events and choices of what falls between. `observe` goes on by what the state
holds, so long as that does not hang on which transactions fault. -/
inductive Program : {α : Type} → (State → Bus α) → Prop
  | answer {α : Type} (a : α) : Program fun s => .ok (a, s)
  | transact (who : Issuer) (x : Transaction) : Program (transact who x)
  | event (e : HwEvent) : Program fun s => .ok ((), hwEvent e s)
  | dropGap : Program fun s => .ok ((), { s with gaps := s.gaps.tail })
  | observe {α β : Type} {op : β → State → Bus α} (see : State → β)
      (hsee : ∀ s busFaults, see (withFaults busFaults s) = see s) (h : ∀ b, Program (op b)) :
      Program fun s => op (see s) s
  | andThen {α β : Type} {op : State → Bus α} {k : α → State → Bus β} (h : Program op)
      (hk : ∀ a, Program (k a)) : Program fun s => andThen (op s) k

namespace Program

theorem of_eq {α : Type} {op op' : State → Bus α} (h : Program op') (heq : ∀ s, op s = op' s) :
    Program op := by
  rwa [funext heq]

theorem read16 (r : WideReg) : Program (read16 (wideOffset r)) :=
  of_eq (.andThen (.transact .own (.readWide r)) fun _ =>
    .observe (wideGet r) (fun _ _ => by cases r <;> rfl) .answer) (read16_eq r)

theorem read8 : Program (read8 controlOffset) :=
  of_eq (.andThen (.transact .own .readControl) fun _ =>
    .observe State.control (fun _ _ => rfl) .answer) read8_eq

theorem write16 (r : WideReg) (v : U16) : Program (write16 (wideOffset r) v) :=
  of_eq (.transact .own (.writeWide r v)) (write16_eq r v)

theorem write8 (v : U8) : Program (write8 controlOffset v) :=
  of_eq (.transact .own (.writeControl v)) (write8_eq v)

/-- Another context's write does not occur under `EXCLUSIVE_MUTATORS` (R46). -/
theorem unlessExclusive {op : State → Bus Unit} (h : Program op) :
    Program fun s => if s.cfg.exclusiveMutators then .ok ((), s) else op s :=
  .observe (op := fun b s => if b then .ok ((), s) else op s) (fun s => s.cfg.exclusiveMutators)
    (fun _ _ => rfl) fun b => by
      cases b with
      | true => exact .answer ()
      | false => exact h

theorem foreignAccess (x : Transaction) : Program (foreignAccess x) := by
  cases x with
  | readWide r =>
    exact of_eq (.andThen (.transact .other (.readWide r)) fun _ => .answer ()) fun s => by
      simp [Machine.foreignAccess, memRead_wide_eq, andThen_assoc]
  | readControl =>
    exact of_eq (.andThen (.transact .other .readControl) fun _ => .answer ()) fun s => by
      simp [Machine.foreignAccess, memRead_control_eq, andThen_assoc]
  | writeWide r v =>
    exact of_eq (unlessExclusive (.transact .other (.writeWide r v))) fun s => by
      simp [Machine.foreignAccess, memWrite_wide_eq]
  | writeControl v =>
    exact of_eq (unlessExclusive (.transact .other (.writeControl v))) fun s => by
      simp [Machine.foreignAccess, memWrite_control_eq]

theorem occurAll (l : List Occurrence) : Program (occurAll l) := by
  induction l with
  | nil => exact .answer ()
  | cons o l ih =>
    cases o with
    | event e => exact .andThen (.event e) fun _ => ih
    | foreign x => exact .andThen (foreignAccess x) fun _ => ih

theorem gap : Program gap := by
  refine of_eq (.observe (op := fun here s => Machine.andThen (.ok ((), { s with gaps := s.gaps.tail }))
    fun _ => Machine.occurAll here) (fun s => s.gaps.headD []) (fun _ _ => rfl)
    fun here => .andThen .dropGap fun _ => occurAll here) fun s => ?_
  unfold Machine.gap
  cases h : s.gaps with
  | nil => exact congrArg (fun t => Except.ok ((), t)) (show s = { s with gaps := [] } by rw [← h])
  | cons here later => rfl

theorem andThenGap {α β : Type} {op : State → Bus α} {k : α → State → Bus β} (h : Program op)
    (hk : ∀ a, Program (k a)) : Program fun s => andThenGap (op s) k :=
  .andThen h fun a => .andThen gap fun _ => hk a

theorem modifyControl (f : U8 → U8) : Program (modifyControl f) :=
  andThenGap read8 fun c => write8 (f c)

end Program

end Sys2Proof.Machine
end

section
/-! PROOFS. The operations by what they write: every operation of software but `new` is built of reads, of its own
writes, and of places for other agents between them (spec/30_encoding.md R61). -/

namespace Sys2Proof.Machine

/-- The ways an operation writes: a 16-bit register, the whole of CONTROL, or a read-modify-write of CONTROL. -/
inductive Write where
  | wide (r : WideReg)
  | control (v : U8)
  | modify (f : U8 → U8)

/-- The writes of each operation (R61, R81, R102, R104, R106, R107, R110). -/
def writes : Instr → List Write
  | .write16Period _ | .writePeriod _ => [.wide .period]
  | .write16Duty _ | .writeDuty _ => [.wide .duty]
  | .write16Clock _ | .writeClock _ => [.wide .clock]
  | .write8Control v | .writeControl v => [.control v]
  | .setBit i => [.modify (setBitWord i)]
  | .clearBit i => [.modify (clearBitWord i)]
  | .configure _ _ _ => [.wide .period, .wide .duty, .wide .clock]
  | .start continuous =>
    [.modify (setBitWord .outputEnable), .modify (setBitWord .pwmEnable),
      .modify (if continuous then setBitWord .continuousOnce else clearBitWord .continuousOnce),
      .modify (setBitWord .pwmStart)]
  | .stop => [.modify (clearBitWord .outputEnable), .modify (clearBitWord .pwmStart)]
  | .resetCounter => [.modify (setBitWord .resetCounter), .modify (clearBitWord .resetCounter)]
  | .selectClockSource external =>
    [.modify (if external then setBitWord .clockSelect else clearBitWord .clockSelect)]
  | .acknowledgeInterrupt => [.modify fun c => c]
  | .read16Period | .read16Duty | .read8Control | .read16Clock => []
  | .readPeriod | .readDuty | .readClock | .readControl | .testBit _ => []
  | .interruptOccurred | .new _ _ | .hwCycleComplete | .hwResetAutoClear => []

/-- What is built of reads, of the writes in `allowed`, and of places for other agents. -/
inductive Built (allowed : List Write) : {α : Type} → (State → Bus α) → Prop
  | answer {α : Type} (a : α) : Built allowed fun s => .ok (a, s)
  | gap : Built allowed gap
  | read16 (r : WideReg) : Built allowed (read16 (wideOffset r))
  | read8 : Built allowed (read8 controlOffset)
  | write16 (r : WideReg) (v : U16) (h : .wide r ∈ allowed) : Built allowed (write16 (wideOffset r) v)
  | write8 (v : U8) (h : .control v ∈ allowed) : Built allowed (write8 controlOffset v)
  | modifyControl (f : U8 → U8) (h : .modify f ∈ allowed) : Built allowed (modifyControl f)
  | ofTol {α : Type} {op : ℚ → State → Bus α} (h : ∀ tol, Built allowed (op tol)) :
      Built allowed fun s => op s.tol s
  | andThen {α β : Type} {op : State → Bus α} {k : α → State → Bus β} (h : Built allowed op)
      (hk : ∀ a, Built allowed (k a)) : Built allowed fun s => andThen (op s) k

namespace Built

variable {allowed : List Write}

theorem program {α : Type} {op : State → Bus α} (h : Built allowed op) : Program op := by
  induction h with
  | answer a => exact .answer a
  | gap => exact .gap
  | read16 r => exact .read16 r
  | read8 => exact .read8
  | write16 r v _ => exact .write16 r v
  | write8 v _ => exact .write8 v
  | modifyControl f _ => exact .modifyControl f
  | ofTol _ ih => exact .observe State.tol (fun _ _ => rfl) ih
  | andThen _ _ ih ihk => exact .andThen ih ihk

theorem andThenGap {α β : Type} {op : State → Bus α} {k : α → State → Bus β} (h : Built allowed op)
    (hk : ∀ a, Built allowed (k a)) : Built allowed fun s => andThenGap (op s) k :=
  .andThen h fun a => .andThen .gap fun _ => hk a

theorem testBit (i : BitIndex) : Built allowed (testBit i) :=
  .andThen .read8 fun c => .answer (flag i c)

theorem returning {α : Type} {op : State → Bus α} (h : Built allowed op) (wrap : α → Value) :
    Built allowed fun s => Machine.andThen (op s) fun a s => returnValue (wrap a) s :=
  .andThen h fun a => .answer (Result.ok (wrap a))

theorem whenStopped {body : State → Bus Result} (h : Built allowed body) :
    Built allowed (whenStopped body) :=
  .andThen (testBit .pwmStart) fun running => by
    cases running with
    | true => exact .answer (Result.err .mustBeStoppedFirst)
    | false => exact h

theorem applyTriple (x : Triple) (h : ∀ r, .wide r ∈ allowed) : Built allowed (applyTriple x) :=
  andThenGap (.write16 .period _ (h _)) fun _ => andThenGap (.write16 .duty _ (h _)) fun _ =>
    .andThen (.write16 .clock _ (h _)) fun _ => .answer (Result.ok .unit)

theorem configureOp (f r c : Num64) (h : ∀ r, .wide r ∈ allowed) : Built allowed (configureOp f r c) :=
  .ofTol (op := fun tol s =>
    match computeTriple tol f r c with
    | .error k => raiseError k s
    | .ok x => Machine.whenStopped (configureBody x) s) fun tol => by
      cases computeTriple tol f r c with
      | error k => exact .answer (Result.err k)
      | ok x => exact whenStopped (.andThen .gap fun _ => applyTriple x h)

theorem startOp (continuous : Bool) : Built (writes (.start continuous)) (startOp continuous) := by
  refine andThenGap (.modifyControl _ (by simp [writes])) fun _ =>
    andThenGap (.modifyControl _ (by simp [writes])) fun _ => andThenGap ?mode fun _ =>
    .modifyControl _ (by simp [writes])
  cases continuous with
  | true => exact .modifyControl (setBitWord .continuousOnce) (by simp [writes])
  | false => exact .modifyControl (clearBitWord .continuousOnce) (by simp [writes])

theorem clockSourceBody (external : Bool) :
    Built (writes (.selectClockSource external)) (clockSourceBody external) := by
  refine .andThen .gap fun _ => .andThen ?source fun _ => .answer (Result.ok .unit)
  cases external with
  | true => exact .modifyControl (setBitWord .clockSelect) (by simp [writes])
  | false => exact .modifyControl (clearBitWord .clockSelect) (by simp [writes])

end Built

/-- The operation that presents a hardware event (R115). -/
def eventInstr : HwEvent → Instr
  | .cycleComplete => .hwCycleComplete
  | .resetAutoClear => .hwResetAutoClear

theorem exec_eventInstr (e : HwEvent) (s : State) :
    exec (eventInstr e) s = .next (hwEvent e { s with trace := [] }) := by
  cases e <;> rfl

/-- Construction answers on admitted arguments only, and stores them (R101). -/
theorem exec_new_cases {base : Address} {tol : ℚ} {s t : State} (h : exec (.new base tol) s = .next t) :
    baseAdmitted base = true ∧ tolAdmitted tol = true ∧
      t = { s with base := base, tol := tol, result := .ok .controller, trace := [] } := by
  simp only [exec, execNew] at h
  split at h
  next hadmitted =>
    obtain ⟨hbase, htol⟩ := Bool.and_eq_true_iff.mp hadmitted
    cases h
    exact ⟨hbase, htol, rfl⟩
  next => cases h

/-- An operation is built of reads and its writes, or it is a construction, or an event. -/
theorem exec_forms (i : Instr) :
    (∃ op, Built (writes i) op ∧ ∀ s, exec i s = perform op s) ∨
      (∃ base tol, i = .new base tol) ∨ ∃ e, i = eventInstr e := by
  have hwide : ∀ f r c : F64, ∀ q, Write.wide q ∈ writes (.configure f r c) := by
    rintro f r c (_ | _ | _) <;> simp [writes]
  cases i
  case read16Period | readPeriod => exact .inl ⟨_, .returning (.read16 .period) .u16, fun _ => rfl⟩
  case read16Duty | readDuty => exact .inl ⟨_, .returning (.read16 .duty) .u16, fun _ => rfl⟩
  case read16Clock | readClock => exact .inl ⟨_, .returning (.read16 .clock) .u16, fun _ => rfl⟩
  case read8Control | readControl => exact .inl ⟨_, .returning .read8 .u8, fun _ => rfl⟩
  case write16Period v | writePeriod v =>
    exact .inl ⟨_, .returning (.write16 .period v (by simp [writes])) _, fun _ => rfl⟩
  case write16Duty v | writeDuty v =>
    exact .inl ⟨_, .returning (.write16 .duty v (by simp [writes])) _, fun _ => rfl⟩
  case write16Clock v | writeClock v =>
    exact .inl ⟨_, .returning (.write16 .clock v (by simp [writes])) _, fun _ => rfl⟩
  case write8Control v | writeControl v =>
    exact .inl ⟨_, .returning (.write8 v (by simp [writes])) _, fun _ => rfl⟩
  case setBit b =>
    exact .inl ⟨_, .returning (.modifyControl _ (by simp [writes])) _, fun _ => rfl⟩
  case clearBit b =>
    exact .inl ⟨_, .returning (.modifyControl _ (by simp [writes])) _, fun _ => rfl⟩
  case testBit b => exact .inl ⟨_, .returning (.testBit b) .bool, fun _ => rfl⟩
  case configure f r c => exact .inl ⟨_, .configureOp _ _ _ (hwide f r c), fun _ => rfl⟩
  case start continuous => exact .inl ⟨_, .returning (.startOp continuous) _, fun _ => rfl⟩
  case stop =>
    exact .inl ⟨_, .returning (.andThenGap (.modifyControl _ (by simp [writes])) fun _ =>
      .modifyControl _ (by simp [writes])) _, fun _ => rfl⟩
  case resetCounter =>
    exact .inl ⟨_, .returning (.andThenGap (.modifyControl _ (by simp [writes])) fun _ =>
      .modifyControl _ (by simp [writes])) _, fun _ => rfl⟩
  case selectClockSource external =>
    exact .inl ⟨_, .whenStopped (.clockSourceBody external), exec_selectClockSource external⟩
  case interruptOccurred => exact .inl ⟨_, .returning (.testBit .interrupt) .bool, fun _ => rfl⟩
  case acknowledgeInterrupt =>
    exact .inl ⟨_, .returning (.modifyControl _ (by simp [writes])) _, fun _ => rfl⟩
  case new base tol => exact .inr (.inl ⟨base, tol, rfl⟩)
  case hwCycleComplete => exact .inr (.inr ⟨.cycleComplete, rfl⟩)
  case hwResetAutoClear => exact .inr (.inr ⟨.resetAutoClear, rfl⟩)

end Sys2Proof.Machine
end

section
/-! PROOFS. What the record says of every operation, whatever the premises: the registers are what its entries
give, one fault choice is used up by each transaction, and a fault ends the operation where it strikes
(spec/20_memory.md R51, spec/60_exceptions.md R127). -/

namespace Sys2Proof.Machine

open Safety

/-! ## Entries and registers -/

theorem replay_append (r : Registers) (d d' : List Entry) :
    replay r (d ++ d') = replay (replay r d) d' :=
  List.foldl_append

theorem accessCount_append (d d' : List Entry) :
    accessCount (d ++ d') = accessCount d + accessCount d' := by
  simp [accessCount]

theorem entryAccess_transactionEntry (who : Issuer) (x : Transaction) (s : State) :
    entryAccess (transactionEntry who x s) =
      some (who, regOffset (transactionReg x), regBytes (transactionReg x)) := by
  cases x <;> rfl

theorem isFaulted_transactionEntry (who : Issuer) (x : Transaction) (s : State) :
    isFaulted (transactionEntry who x s) = false := by
  cases x <;> rfl

/-- A transaction does to the registers what its entry says. -/
theorem registersOf_store (who : Issuer) (x : Transaction) (s : State) :
    registersOf (store x s) = afterEntry (registersOf s) (transactionEntry who x s) := by
  cases x with
  | readWide r => rfl
  | writeWide r v => cases r <;> rfl
  | readControl => rfl
  | writeControl v => simp [registersOf, store, transactionEntry, afterEntry, controlAfter]

/-- An event does to the registers what its entry says, and leaves no entry where it does not occur. -/
theorem hwEvent_cases (e : HwEvent) (s : State) :
    (eventEnabled s.cfg s.control e = false ∧ hwEvent e s = s) ∨
      (eventEnabled s.cfg s.control e = true ∧
        hwEvent e s = log (.event e) { s with control := eventEffect s.control e }) := by
  unfold hwEvent
  split
  next h => exact .inr ⟨h, rfl⟩
  next h => exact .inl ⟨by simpa using h, rfl⟩

/-! ## From a state to a later one -/

/-- `d` is what reached the block from `s` to `t`, and nothing else has changed. -/
structure Reaches (s : State) (d : List Entry) (t : State) : Prop where
  trace : t.trace = s.trace ++ d
  clean : d.any isFaulted = false
  registers : registersOf t = replay (registersOf s) d
  frame : SameFrame s t
  gaps : ∃ used, t.gaps = s.gaps.drop used
  faults_mapped : s.cfg.mapped = true → t.busFaults = s.busFaults
  faults : s.cfg.mapped = false → t.busFaults ≠ [] →
    s.busFaults = List.replicate (accessCount d) false ++ t.busFaults

theorem Reaches.refl (s : State) : Reaches s [] s where
  trace := by simp
  clean := rfl
  registers := rfl
  frame := .refl s
  gaps := ⟨0, rfl⟩
  faults_mapped := fun _ => rfl
  faults := fun _ _ => rfl

theorem Reaches.trans {s t u : State} {d d' : List Entry} (h : Reaches s d t) (k : Reaches t d' u) :
    Reaches s (d ++ d') u where
  trace := by rw [k.trace, h.trace, List.append_assoc]
  clean := by rw [List.any_append, h.clean, k.clean, Bool.false_or]
  registers := by rw [k.registers, h.registers, replay_append]
  frame := h.frame.trans k.frame
  gaps := by
    obtain ⟨m, hm⟩ := h.gaps
    obtain ⟨n, hn⟩ := k.gaps
    exact ⟨m + n, by rw [hn, hm, List.drop_drop]⟩
  faults_mapped := fun hs => (k.faults_mapped (by rwa [h.frame.cfg])).trans (h.faults_mapped hs)
  faults := by
    intro hs hu
    have htu := k.faults (by rwa [h.frame.cfg]) hu
    have hst := h.faults hs (by rw [htu]; exact List.append_ne_nil_of_right_ne_nil _ hu)
    rw [hst, htu, accessCount_append, ← List.append_assoc, List.replicate_append_replicate]

/-- A state that differs only in choices used up and the entry of what used them. -/
theorem Reaches.of_event (e : HwEvent) (s : State) : ∃ d, Reaches s d (hwEvent e s) := by
  obtain ⟨-, heq⟩ | ⟨-, heq⟩ := hwEvent_cases e s
  · exact ⟨[], by rw [heq]; exact .refl s⟩
  · refine ⟨[.event e], ?_⟩
    rw [heq]
    exact ⟨rfl, rfl, rfl, ⟨rfl, rfl, rfl, rfl, rfl⟩, ⟨0, rfl⟩, fun _ => rfl, fun _ _ => rfl⟩

theorem Reaches.dropGap (s : State) : Reaches s [] { s with gaps := s.gaps.tail } where
  trace := by simp
  clean := rfl
  registers := rfl
  frame := ⟨rfl, rfl, rfl, rfl, rfl⟩
  gaps := ⟨1, by simp⟩
  faults_mapped := fun _ => rfl
  faults := fun _ _ => rfl

/-- What a transaction leaves, once its access is granted. -/
theorem store_sameFrame (x : Transaction) (s : State) : SameFrame s (store x s) := by
  cases x with
  | readWide r => exact .refl s
  | writeWide r v => constructor <;> simp [store]
  | readControl => exact .refl s
  | writeControl v => constructor <;> simp [store]

theorem store_choices (x : Transaction) (s : State) :
    (store x s).gaps = s.gaps ∧ (store x s).busFaults = s.busFaults ∧ (store x s).trace = s.trace := by
  cases x <;> simp [store]

/-- The end of a transaction that is granted. -/
def afterTransaction (who : Issuer) (x : Transaction) (s : State) : State :=
  log (transactionEntry who x s) (store x s)

theorem Reaches.transaction (who : Issuer) (x : Transaction) (s : State) (busFaults : List Bool)
    (hmapped : s.cfg.mapped = true → busFaults = s.busFaults)
    (hunmapped : s.cfg.mapped = false → busFaults ≠ [] → s.busFaults = false :: busFaults) :
    Reaches s [transactionEntry who x s] { afterTransaction who x s with busFaults := busFaults } := by
  obtain ⟨hgaps, -, htrace⟩ := store_choices x s
  obtain ⟨hbase, htol, hcfg, hinbox, hresult⟩ := store_sameFrame x s
  refine ⟨?_, ?_, registersOf_store who x s, ⟨hbase, htol, hcfg, hinbox, hresult⟩, ⟨0, hgaps⟩,
    hmapped, ?_⟩
  · simp [afterTransaction, htrace]
  · simp [isFaulted_transactionEntry]
  · simpa [accessCount, entryAccess_transactionEntry] using hunmapped

/-! ## One transaction: granted, or the fault -/

theorem transact_mapped {s : State} (h : s.cfg.mapped = true) (who : Issuer) (x : Transaction) :
    transact who x s = .ok ((), afterTransaction who x s) := by
  simp [transact, reach, grant_mapped h who (windowRegister_reg _), afterTransaction]

theorem afterTransaction_busFaults (who : Issuer) (x : Transaction) (s : State) (busFaults : List Bool) :
    afterTransaction who x { s with busFaults := busFaults } =
      { afterTransaction who x s with busFaults := busFaults } := by
  cases x with
  | readWide r => cases r <;> rfl
  | writeWide r v => cases r <;> rfl
  | readControl => rfl
  | writeControl v => simp [afterTransaction, store, transactionEntry, controlSet_eq, log]

/-- Without `MAPPED`, with a choice left that does not fault. -/
theorem transact_granted {s : State} (h : s.cfg.mapped = false) (who : Issuer) (x : Transaction)
    {later : List Bool} (hb : s.busFaults = false :: later) :
    transact who x s = .ok ((), { afterTransaction who x s with busFaults := later }) := by
  rw [← afterTransaction_busFaults]
  simp [transact, reach, grant, effectiveAddress, windowRegister_reg, h, hb, afterTransaction]

/-- Without `MAPPED`, with no choice left. -/
theorem transact_exhausted {s : State} (h : s.cfg.mapped = false) (who : Issuer) (x : Transaction)
    (hb : s.busFaults = []) : transact who x s = .ok ((), afterTransaction who x s) := by
  simp [transact, reach, grant, effectiveAddress, windowRegister_reg, h, hb, afterTransaction]

/-- Without `MAPPED`, with a choice left that faults. -/
theorem transact_faults {s : State} (h : s.cfg.mapped = false) (who : Issuer) (x : Transaction)
    {later : List Bool} (hb : s.busFaults = true :: later) :
    transact who x s = .error (.registerAccessFault
      (log (.faulted who (s.base.toNat + regOffset (transactionReg x)) (regBytes (transactionReg x)))
        { s with busFaults := later })) := by
  rw [transact, reach, grant_faults h who (windowRegister_reg _) hb]
  rfl

/-! ## What every program records -/

/-- From `s` the access primitive fails a transaction after some others, and `left` is what that leaves. -/
def FaultsFrom (s left : State) : Prop :=
  ∃ d t who address n later, Reaches s d t ∧ s.cfg.mapped = false ∧ t.busFaults = true :: later ∧
    left = log (.faulted who address n) { t with busFaults := later }

/-- Going on after a fault is going nowhere; going on after an answer may still fault. -/
theorem andThen_error_cases {α β : Type} {x : Bus α} {k : α → State → Bus β} {f : Fault}
    (h : andThen x k = .error f) : x = .error f ∨ ∃ a u, x = .ok (a, u) ∧ k a u = .error f := by
  cases x with
  | error g => cases h; exact .inl rfl
  | ok p => exact .inr ⟨p.1, p.2, rfl, h⟩

theorem Program.reaches {α : Type} {op : State → Bus α} (h : Program op) :
    ∀ {s : State} {a : α} {t : State}, op s = .ok (a, t) → ∃ d, Reaches s d t := by
  induction h with
  | answer a => intro s b t hop; cases hop; exact ⟨[], .refl s⟩
  | transact who x =>
    intro s _ t hop
    refine ⟨[transactionEntry who x s], ?_⟩
    cases hmapped : s.cfg.mapped with
    | true =>
      rw [transact_mapped hmapped] at hop
      cases hop
      exact .transaction who x s _ (fun _ => (store_choices x s).2.1) (by simp [hmapped])
    | false =>
      cases hb : s.busFaults with
      | nil =>
        rw [transact_exhausted hmapped _ _ hb] at hop
        cases hop
        have hkept : (afterTransaction who x s).busFaults = s.busFaults := (store_choices x s).2.1
        exact .transaction who x s _ (fun _ => hkept) fun _ hne => absurd (hkept.trans hb) hne
      | cons b later =>
        cases b with
        | true => rw [transact_faults hmapped _ _ hb] at hop; cases hop
        | false =>
          rw [transact_granted hmapped _ _ hb] at hop
          cases hop
          exact .transaction who x s later (by simp [hmapped]) fun _ _ => hb
  | event e => intro s _ t hop; cases hop; exact Reaches.of_event e s
  | dropGap => intro s _ t hop; cases hop; exact ⟨[], .dropGap s⟩
  | observe see hsee _ ih => intro s a t hop; exact ih _ hop
  | andThen _ _ ih ihk =>
    intro s b u hop
    obtain ⟨a, t, hfirst, hrest⟩ := andThen_cases hop
    obtain ⟨d, hd⟩ := ih hfirst
    obtain ⟨d', hd'⟩ := ihk a hrest
    exact ⟨d ++ d', hd.trans hd'⟩

theorem Program.faultsFrom {α : Type} {op : State → Bus α} (h : Program op) :
    ∀ {s left : State}, op s = .error (.registerAccessFault left) → FaultsFrom s left := by
  induction h with
  | answer a => intro s left hop; cases hop
  | transact who x =>
    intro s left hop
    cases hmapped : s.cfg.mapped with
    | true => rw [transact_mapped hmapped] at hop; cases hop
    | false =>
      cases hb : s.busFaults with
      | nil => rw [transact_exhausted hmapped _ _ hb] at hop; cases hop
      | cons b later =>
        cases b with
        | false => rw [transact_granted hmapped _ _ hb] at hop; cases hop
        | true =>
          rw [transact_faults hmapped _ _ hb] at hop
          cases hop
          exact ⟨[], s, _, _, _, later, .refl s, hmapped, hb, rfl⟩
  | event e => intro s left hop; cases hop
  | dropGap => intro s left hop; cases hop
  | observe see hsee _ ih => intro s left hop; exact ih _ hop
  | andThen hop' _ ih ihk =>
    intro s left hop
    obtain hfirst | ⟨a, t, hfirst, hrest⟩ := andThen_error_cases hop
    · exact ih hfirst
    · obtain ⟨d, hd⟩ := hop'.reaches hfirst
      obtain ⟨d', u, who, address, n, later, hd', hmapped, hb, rfl⟩ := ihk a hrest
      exact ⟨d ++ d', u, who, address, n, later, hd.trans hd', by rwa [← hd.frame.cfg], hb, rfl⟩

/-! ## The same program with the fault at a transaction of choice -/

/-- `op`, run under `MAPPED` from `s` to `t` with record `d`, does the same without `MAPPED` as long as no choice
faults, and ends in the fault at whichever transaction of `d` the choices name. -/
structure FaultsAnywhere {α : Type} (op : State → Bus α) (s : State) (a : α) (d : List Entry)
    (t : State) : Prop where
  reaches : Reaches s d t
  passes : ∀ later, op (withFaults (List.replicate (accessCount d) false ++ later) s) =
    .ok (a, withFaults later t)
  fails : ∀ before e after who offset n later, d = before ++ e :: after →
    entryAccess e = some (who, offset, n) →
    ∃ u, Reaches s before u ∧
      op (withFaults (List.replicate (accessCount before) false ++ true :: later) s) =
        .error (.registerAccessFault
          (log (.faulted who (s.base.toNat + offset) n) (withFaults later u)))

/-- A part of a program that is no transaction. -/
theorem FaultsAnywhere.of_no_access {α : Type} {op : State → Bus α} {s t : State} {a : α}
    {d : List Entry} (hreaches : Reaches s d t) (hnone : ∀ e ∈ d, entryAccess e = none)
    (hop : ∀ later, op (withFaults later s) = .ok (a, withFaults later t)) :
    FaultsAnywhere op s a d t where
  reaches := hreaches
  passes := by
    have hcount : accessCount d = 0 := by simp [accessCount, List.filterMap_eq_nil_iff.mpr hnone]
    simpa [hcount] using hop
  fails := by
    rintro before e after who offset n later rfl haccess
    rw [hnone e (by simp)] at haccess
    cases haccess

theorem FaultsAnywhere.andThen {α β : Type} {op : State → Bus α} {k : α → State → Bus β}
    {s t u : State} {a : α} {b : β} {d d' : List Entry} (h : FaultsAnywhere op s a d t)
    (hk : FaultsAnywhere (k a) t b d' u) :
    FaultsAnywhere (fun s => andThen (op s) k) s b (d ++ d') u where
  reaches := h.reaches.trans hk.reaches
  passes := by
    intro later
    rw [accessCount_append, ← List.replicate_append_replicate, List.append_assoc, h.passes, andThen_ok,
      hk.passes]
  fails := by
    intro before e after who offset n later hsplit haccess
    have hsecond : ∀ l, before = d ++ l → d' = l ++ e :: after → ∃ v, Reaches s before v ∧
        Machine.andThen (op (withFaults
          (List.replicate (accessCount before) false ++ true :: later) s)) k =
          .error (.registerAccessFault
            (log (.faulted who (s.base.toNat + offset) n) (withFaults later v))) := by
      rintro l rfl hd'
      obtain ⟨v, hreaches, hfault⟩ := hk.fails l e after who offset n later hd' haccess
      refine ⟨v, h.reaches.trans hreaches, ?_⟩
      rw [accessCount_append, ← List.replicate_append_replicate, List.append_assoc, h.passes,
        andThen_ok, hfault, h.reaches.frame.base]
    obtain ⟨l, hbefore, hd'⟩ | ⟨l, hd, hafter⟩ := List.append_eq_append_iff.mp hsplit
    · exact hsecond l hbefore hd'
    · cases l with
      | nil => exact hsecond [] (by simpa using hd.symm) (by simpa using hafter.symm)
      | cons e' l =>
        obtain ⟨rfl, -⟩ := List.cons_eq_cons.mp hafter
        obtain ⟨v, hreaches, hfault⟩ := h.fails before e l who offset n later hd haccess
        exact ⟨v, hreaches, by rw [hfault]; rfl⟩

theorem afterTransaction_withFaults (who : Issuer) (x : Transaction) (s : State)
    (busFaults later : List Bool) :
    { afterTransaction who x (withFaults busFaults s) with busFaults := later } =
      withFaults later (afterTransaction who x s) := by
  cases x with
  | readWide r => cases r <;> rfl
  | writeWide r v => cases r <;> rfl
  | readControl => rfl
  | writeControl v => simp [afterTransaction, store, transactionEntry, controlSet_eq, log, withFaults]

theorem FaultsAnywhere.transact {s : State} (hmapped : s.cfg.mapped = true) (who : Issuer)
    (x : Transaction) :
    FaultsAnywhere (transact who x) s () [transactionEntry who x s] (afterTransaction who x s) where
  reaches := .transaction who x s _ (fun _ => (store_choices x s).2.1) (by simp [hmapped])
  passes := by
    intro later
    have hcount : accessCount [transactionEntry who x s] = 1 := by
      simp [accessCount, entryAccess_transactionEntry]
    rw [hcount, ← afterTransaction_withFaults]
    exact transact_granted (s := withFaults (false :: later) s) rfl who x rfl
  fails := by
    intro before e after who' offset n later hsplit haccess
    obtain ⟨rfl, rfl, rfl⟩ : before = [] ∧ transactionEntry who x s = e ∧ after = [] := by
      cases before <;> simp_all
    rw [entryAccess_transactionEntry] at haccess
    cases haccess
    exact ⟨s, .refl s, transact_faults (s := withFaults _ s) rfl who x rfl⟩

theorem Program.faultsAnywhere {α : Type} {op : State → Bus α} (h : Program op) :
    ∀ {s : State} {a : α} {t : State}, s.cfg.mapped = true → op s = .ok (a, t) →
      ∃ d, FaultsAnywhere op s a d t := by
  induction h with
  | answer a =>
    intro s b t _ hop
    cases hop
    exact ⟨[], .of_no_access (.refl s) (by simp) fun _ => rfl⟩
  | transact who x =>
    intro s _ t hmapped hop
    rw [transact_mapped hmapped] at hop
    cases hop
    exact ⟨_, .transact hmapped who x⟩
  | event e =>
    intro s _ t hmapped hop
    cases hop
    have hsame : ∀ later, hwEvent e (withFaults later s) = withFaults later (hwEvent e s) := by
      intro later
      have henabled : eventEnabled (withFaults later s).cfg (withFaults later s).control e =
          eventEnabled s.cfg s.control e := by cases e <;> rfl
      unfold hwEvent
      rw [henabled]
      split <;> rfl
    obtain ⟨d, hd⟩ := Reaches.of_event e s
    refine ⟨d, .of_no_access hd ?_ fun later => by rw [hsame]⟩
    obtain ⟨-, heq⟩ | ⟨-, heq⟩ := hwEvent_cases e s
    · have hnil : d = [] := by simpa [heq] using hd.trace
      simp [hnil]
    · have hone : d = [.event e] := by simpa [heq] using hd.trace.symm
      simp [hone, entryAccess]
  | dropGap =>
    intro s _ t _ hop
    cases hop
    exact ⟨[], .of_no_access (.dropGap s) (by simp) fun _ => rfl⟩
  | @observe α β op see hsee _ ih =>
    intro s a t hmapped hop
    obtain ⟨d, hd⟩ := ih (see s) hmapped hop
    refine ⟨d, hd.reaches, fun later => ?_, fun before e after who offset n later hsplit haccess => ?_⟩
    · simpa only [hsee] using hd.passes later
    · simpa only [hsee] using hd.fails before e after who offset n later hsplit haccess
  | andThen _ _ ih ihk =>
    intro s b u hmapped hop
    obtain ⟨a, t, hfirst, hrest⟩ := andThen_cases hop
    obtain ⟨d, hd⟩ := ih hmapped hfirst
    obtain ⟨d', hd'⟩ := ihk a (by rwa [hd.reaches.frame.cfg]) hrest
    exact ⟨d ++ d', hd.andThen hd'⟩

end Sys2Proof.Machine
end

section
/-! PROOFS. What the record says of every operation: the registers it gives, the fault that ends it, and where
INTERRUPT comes from (spec/60_exceptions.md R127, R131; spec/00_scope.md R6, R29). -/

namespace Sys2Proof.Machine

open Safety

/-! ## From programs to operations -/

/-- What an operation that answers has left in the record, from its registers to those it ends with. -/
structure Leaves (s t : State) : Prop where
  clean : t.trace.any isFaulted = false
  registers : registersOf t = replay (registersOf s) t.trace
  cfg : t.cfg = s.cfg
  inbox : t.inbox = s.inbox
  busFaults : s.cfg.mapped = true → t.busFaults = s.busFaults

theorem Reaches.leaves {s t : State} {d : List Entry} (h : Reaches { s with trace := [] } d t)
    (r : Result) : Leaves s { t with result := r } := by
  have htrace : t.trace = d := by simpa using h.trace
  refine ⟨?_, ?_, h.frame.cfg, h.frame.inbox, h.faults_mapped⟩
  · simpa [htrace] using h.clean
  · exact h.registers.trans (by rw [htrace]; rfl)

theorem exec_leaves {i : Instr} {s t : State} (h : exec i s = .next t) : Leaves s t := by
  obtain ⟨op, hop, heq⟩ | ⟨base, tol, rfl⟩ | ⟨e, rfl⟩ := exec_forms i
  · rw [heq] at h
    obtain ⟨r, u, hu, rfl⟩ := perform_cases h
    obtain ⟨d, hd⟩ := hop.program.reaches hu
    exact hd.leaves r
  · obtain ⟨-, -, rfl⟩ := exec_new_cases h
    exact ⟨rfl, rfl, rfl, rfl, fun _ => rfl⟩
  · rw [exec_eventInstr] at h
    cases h
    obtain ⟨d, hd⟩ := Reaches.of_event e { s with trace := [] }
    exact hd.leaves _

/-- Only `new` stores `BASE` and `TOL` (R29). -/
theorem exec_fields {i : Instr} {s t : State} (h : exec i s = .next t)
    (hnew : ∀ base tol, i ≠ .new base tol) : t.base = s.base ∧ t.tol = s.tol := by
  obtain ⟨op, hop, heq⟩ | ⟨base, tol, rfl⟩ | ⟨e, rfl⟩ := exec_forms i
  · rw [heq] at h
    obtain ⟨r, u, hu, rfl⟩ := perform_cases h
    obtain ⟨d, hd⟩ := hop.program.reaches hu
    exact ⟨hd.frame.base, hd.frame.tol⟩
  · exact absurd rfl (hnew base tol)
  · rw [exec_eventInstr] at h
    cases h
    have hcalm := hwEvent_calm e { s with trace := [] }
    exact ⟨hcalm.base, hcalm.tol⟩

/-- An operation that faults is built of transactions, one of which the access primitive failed. -/
theorem exec_fault_cases {i : Instr} {s left : State}
    (h : exec i s = .fault (.registerAccessFault left)) : FaultsFrom { s with trace := [] } left := by
  obtain ⟨op, hop, heq⟩ | ⟨base, tol, rfl⟩ | ⟨e, rfl⟩ := exec_forms i
  · rw [heq] at h
    unfold perform at h
    split at h
    next => cases h
    next hfault => cases h; exact hop.program.faultsFrom hfault
  · simp only [exec, execNew] at h
    split at h <;> cases h
  · rw [exec_eventInstr] at h
    cases h

/-- An event's record holds no transaction. -/
theorem hwEvent_trace {e : HwEvent} {s : State} {x : Entry}
    (h : x ∈ (hwEvent e { s with trace := [] }).trace) : x = .event e := by
  obtain ⟨-, heq⟩ | ⟨-, heq⟩ := hwEvent_cases e { s with trace := [] }
  · rw [heq] at h; cases h
  · rw [heq] at h; simpa using h

/-- Whichever transaction of a run under `MAPPED` the access primitive fails, the run ends there. -/
theorem exec_faults_anywhere {i : Instr} {s t : State} {before after : List Entry} {e : Entry}
    {who : Issuer} {offset n : Nat} (later : List Bool) (hmapped : s.cfg.mapped = true)
    (h : exec i s = .next t) (htrace : t.trace = before ++ e :: after)
    (haccess : entryAccess e = some (who, offset, n)) :
    ∃ u, Reaches { s with trace := [] } before u ∧
      exec i (withFaults (List.replicate (accessCount before) false ++ true :: later) s) =
        .fault (.registerAccessFault
          (log (.faulted who (s.base.toNat + offset) n) (withFaults later u))) := by
  obtain ⟨op, hop, heq⟩ | ⟨base, tol, rfl⟩ | ⟨ev, rfl⟩ := exec_forms i
  · rw [heq] at h ⊢
    obtain ⟨r, u, hu, rfl⟩ := perform_cases h
    obtain ⟨d, hd⟩ := hop.program.faultsAnywhere (s := { s with trace := [] }) hmapped hu
    have hrecord : u.trace = d := by simpa using hd.reaches.trace
    obtain ⟨v, hv, hfault⟩ := hd.fails before e after who offset n later (hrecord ▸ htrace) haccess
    exact ⟨v, hv, perform_of_error hfault⟩
  · obtain ⟨-, -, rfl⟩ := exec_new_cases h
    simp at htrace
  · rw [exec_eventInstr] at h
    cases h
    have he : e = .event ev := hwEvent_trace (htrace ▸ List.mem_append_cons_self)
    rw [he] at haccess
    cases haccess

/-- Settles O30: an operation is a program, whose record gives the registers it leaves and can be cut at any
transaction. -/
theorem accessFaultEndsTheOperationAndKeepsEarlierWrites :
    Obligations.AccessFaultEndsTheOperationAndKeepsEarlierWrites := by
  refine ⟨fun i s t h => ?answers, fun i s left h => ?ends, ?anywhere⟩
  case answers =>
    have hleaves := exec_leaves h
    exact ⟨hleaves.registers, hleaves.clean⟩
  case ends =>
    obtain ⟨d, t, who, address, n, later, hd, hmapped, hb, rfl⟩ := exec_fault_cases h
    obtain ⟨used, hgaps⟩ := hd.gaps
    obtain ⟨hbase, htol, hcfg, hinbox, hresult⟩ := hd.frame
    have hfaults := hd.faults hmapped (by simp [hb])
    rw [hb] at hfaults
    refine ⟨hmapped, d, who, address, n, ?_, hd.clean, hd.registers, hfaults, hbase, htol, hcfg, hinbox,
      hresult, used, hgaps⟩
    simp [log, hd.trace]
  case anywhere =>
    intro i s t before after e who offset n later h htrace haccess
    obtain ⟨u, hu, hfault⟩ := exec_faults_anywhere later rfl h htrace haccess
    refine ⟨_, hfault, ?_, rfl, hu.registers⟩
    simp [log, withFaults, hu.trace]

/-! ## Where INTERRUPT comes from -/

theorem flag_interrupt_controlWrite (c v : U8) :
    flag .interrupt (controlWrite c v) = (flag .interrupt c && !flag .interrupt v) :=
  controlWrite_interrupt c v

/-- INTERRUPT after one entry (R131). -/
theorem flag_interrupt_afterEntry (r : Registers) (e : Entry) :
    flag .interrupt (afterEntry r e).control =
      ((flag .interrupt r.control || decide (e = .event .cycleComplete)) && !acknowledges e) := by
  cases e with
  | read16 who offset v => simp [afterEntry, acknowledges]
  | write16 who offset v =>
    have hcontrol : (afterEntry r (.write16 who offset v)).control = r.control := by
      simp only [afterEntry]
      split <;> rfl
    simp [hcontrol, acknowledges]
  | read8 who offset v => simp [afterEntry, acknowledges]
  | write8 who offset v =>
    simp [afterEntry, controlAfter, flag_interrupt_controlWrite, acknowledges]
  | faulted who address n => simp [afterEntry, acknowledges]
  | event e =>
    cases e with
    | cycleComplete =>
      simp [afterEntry, controlAfter, (eventEffect_cycle_facts r.control).1, acknowledges]
    | resetAutoClear =>
      simp [afterEntry, controlAfter, (eventEffect_clear_facts r.control).1, acknowledges]

/-- A record without a completion does not raise INTERRUPT. -/
theorem replay_interrupt_low {d : List Entry} (hnone : .event .cycleComplete ∉ d) :
    ∀ {r : Registers}, flag .interrupt r.control = false → flag .interrupt (replay r d).control = false := by
  induction d with
  | nil => exact id
  | cons e d ih =>
    obtain ⟨hne, hnone⟩ := not_or.mp (mt List.mem_cons.mpr hnone)
    intro r hr
    refine ih hnone ?_
    simp [flag_interrupt_afterEntry, hr, Ne.symm hne]

/-- A record without a written 1 does not lower INTERRUPT. -/
theorem replay_interrupt_high {d : List Entry} (hnone : ∀ e ∈ d, acknowledges e = false) :
    ∀ {r : Registers}, flag .interrupt r.control = true → flag .interrupt (replay r d).control = true := by
  induction d with
  | nil => exact id
  | cons e d ih =>
    obtain ⟨he, hnone⟩ := List.forall_mem_cons.mp hnone
    intro r hr
    refine ih hnone ?_
    simp [flag_interrupt_afterEntry, hr, he]

/-- A completion, with no written 1 in the record, leaves INTERRUPT raised. -/
theorem replay_interrupt_of_completion {d : List Entry} (hnone : ∀ e ∈ d, acknowledges e = false)
    (hmem : .event .cycleComplete ∈ d) (r : Registers) :
    flag .interrupt (replay r d).control = true := by
  obtain ⟨before, after, rfl⟩ := List.append_of_mem hmem
  rw [replay_append]
  refine replay_interrupt_high (d := after) (fun e he => hnone e (by simp [he])) ?_
  simp [flag_interrupt_afterEntry, acknowledges]

/-- Settles O42: the registers are what the record gives, and an entry raises or lowers INTERRUPT as R131 says. -/
theorem interruptIsSetOnlyByCompletionAndClearedOnlyByOne :
    Obligations.InterruptIsSetOnlyByCompletionAndClearedOnlyByOne := by
  intro i s t h
  have hcontrol : t.control = (replay (registersOf s) t.trace).control :=
    congrArg Registers.control (exec_leaves h).registers
  rw [hcontrol]
  constructor
  · intro hlow hhigh
    by_contra hnone
    exact absurd hhigh (by simp [replay_interrupt_low hnone (r := registersOf s) hlow])
  · intro hhigh hlow
    by_contra hnone
    have hkept : ∀ e ∈ t.trace, acknowledges e = false := fun e he => by
      simpa using fun hack => hnone ⟨e, he, hack⟩
    exact absurd hlow (by simp [replay_interrupt_high hkept (r := registersOf s) hhigh])

/-! ## Steps -/

/-- A step that answers idled or performed an operation. -/
theorem step_cases {s t : State} (h : step s = .next t) :
    t = s ∨ ∃ i rest, exec i { s with inbox := rest } = .next t := by
  unfold step fetch at h
  split at h
  next hfetch => cases h; exact .inl rfl
  next i u hfetch =>
    split at hfetch
    · cases hfetch
    · split at hfetch <;> cases hfetch
      exact .inr ⟨i, _, h⟩
  next o hfetch =>
    split at hfetch
    · cases hfetch
    · split at hfetch
      · cases hfetch
      next e _ => cases hfetch; cases e <;> cases h

/-- Settles O49: every operation leaves the parameters, and only a construction stores `BASE` and `TOL`. -/
theorem parametersNeverChange : Obligations.ParametersNeverChange := by
  refine ⟨fun s t h => ?_, fun i s t => exec_fields⟩
  obtain rfl | ⟨i, rest, hexec⟩ := step_cases h
  · rfl
  · exact (exec_leaves hexec).cfg

/-- Settles O50: a construction stores admitted fields, and nothing else stores any. -/
theorem everyStepKeepsTheControllerFieldsAdmitted :
    Obligations.EveryStepKeepsTheControllerFieldsAdmitted := by
  intro s t hadmitted h
  obtain rfl | ⟨i, rest, hexec⟩ := step_cases h
  · exact hadmitted
  by_cases hnew : ∃ base tol, i = .new base tol
  · obtain ⟨base, tol, rfl⟩ := hnew
    obtain ⟨hbase, htol, rfl⟩ := exec_new_cases hexec
    simp [controllerFieldsAdmitted, hbase, htol]
  · obtain ⟨hbase, htol⟩ := exec_fields hexec fun base tol heq => hnew ⟨base, tol, heq⟩
    rwa [controllerFieldsAdmitted, hbase, htol]

/-- Settles O51: the reset values of `BASE` and `TOL` are admitted. -/
theorem resetHasAdmittedControllerFields : Obligations.ResetHasAdmittedControllerFields := by
  unfold Obligations.ResetHasAdmittedControllerFields
  decide

end Sys2Proof.Machine
end

section
/-! PROOFS. Decoding and stepping (spec/30_encoding.md R52 to R60, spec/41_registerview.md R81): what the encoder
writes is read back, an operation is read from its own selector only, and the rest is stopped by name. -/

namespace Sys2Proof

open Machine

/-! ## Reading back what the encoder wrote -/

theorem withOperand_ok {α : Type} {mk : α → Instr} {p : Parsed α} {a : α} {rest : List Byte}
    (h : p = .ok (a, rest)) : withOperand mk p = .ok (mk a, rest) := by
  rw [h]; rfl

theorem takeConfigure_bytes (f r c : F64) (rest : List Byte) :
    takeConfigure (bytesU64 f ++ (bytesU64 r ++ bytesU64 c) ++ rest) = .ok (.configure f r c, rest) := by
  simp only [takeConfigure, List.append_assoc, takeU64_bytes, withOperand]

theorem takeNew_bytes {base : Address} {tol : ℚ} (htol : 0 ≤ tol) (rest : List Byte) :
    takeNew (bytesU64 base ++ bytesTol tol ++ rest) = .ok (.new base tol, rest) := by
  simp only [takeNew, List.append_assoc, takeU64_bytes, takeTol_bytes htol, withOperand]

/-- Settles O57, row by row: the row's selector, then its operands. -/
theorem decodingAnEncodedOperationGivesItBack : Obligations.DecodingAnEncodedOperationGivesItBack := by
  intro i rest hwf
  cases i
  case read16Period => rw [encode, selector_read16Period]; exact decode_read16Period rest
  case write16Period v =>
    rw [encode, selector_write16Period]
    exact (decode_write16Period _).trans (withOperand_ok (takeU16_bytes v rest))
  case read16Duty => rw [encode, selector_read16Duty]; exact decode_read16Duty rest
  case write16Duty v =>
    rw [encode, selector_write16Duty]
    exact (decode_write16Duty _).trans (withOperand_ok (takeU16_bytes v rest))
  case read8Control => rw [encode, selector_read8Control]; exact decode_read8Control rest
  case write8Control v =>
    rw [encode, selector_write8Control]
    exact (decode_write8Control _).trans (withOperand_ok (takeU8_bytes v rest))
  case read16Clock => rw [encode, selector_read16Clock]; exact decode_read16Clock rest
  case write16Clock v =>
    rw [encode, selector_write16Clock]
    exact (decode_write16Clock _).trans (withOperand_ok (takeU16_bytes v rest))
  case readPeriod => exact decode_readPeriod rest
  case writePeriod v => exact (decode_writePeriod _).trans (withOperand_ok (takeU16_bytes v rest))
  case readDuty => exact decode_readDuty rest
  case writeDuty v => exact (decode_writeDuty _).trans (withOperand_ok (takeU16_bytes v rest))
  case readClock => exact decode_readClock rest
  case writeClock v => exact (decode_writeClock _).trans (withOperand_ok (takeU16_bytes v rest))
  case readControl => exact decode_readControl rest
  case writeControl v => exact (decode_writeControl _).trans (withOperand_ok (takeU8_bytes v rest))
  case setBit b => exact (decode_setBit _).trans (withOperand_ok (takeBitIndex_bytes b rest))
  case clearBit b => exact (decode_clearBit _).trans (withOperand_ok (takeBitIndex_bytes b rest))
  case testBit b => exact (decode_testBit _).trans (withOperand_ok (takeBitIndex_bytes b rest))
  case configure f r c => exact (decode_configure _).trans (takeConfigure_bytes f r c rest)
  case start c => exact (decode_start _).trans (withOperand_ok (takeBool_bytes c rest))
  case stop => exact decode_stop rest
  case resetCounter => exact decode_resetCounter rest
  case selectClockSource e =>
    exact (decode_selectClockSource _).trans (withOperand_ok (takeBool_bytes e rest))
  case interruptOccurred => exact decode_interruptOccurred rest
  case acknowledgeInterrupt => exact decode_acknowledgeInterrupt rest
  case new base tol =>
    have htol : 0 ≤ tol := of_decide_eq_true (Bool.and_eq_true_iff.mp hwf).2
    exact (decode_new _).trans (takeNew_bytes htol rest)
  case hwCycleComplete => exact decode_hwCycleComplete rest
  case hwResetAutoClear => exact decode_hwResetAutoClear rest

/-! ## No decoder makes bytes up -/

/-- What a decoder leaves is no longer than what it was given. -/
def Shortens {α : Type} (take : List Byte → Parsed α) : Prop :=
  ∀ ⦃bytes : List Byte⦄ ⦃a : α⦄ ⦃rest : List Byte⦄, take bytes = .ok (a, rest) → rest.length ≤ bytes.length

theorem shortens_takeU8 : Shortens takeU8
  | _ :: _, _, _, rfl => Nat.le_succ _

theorem shortens_takeU16 : Shortens takeU16
  | _ :: _ :: _, _, _, rfl => by simp only [List.length_cons]; omega

theorem shortens_takeU64 : Shortens takeU64
  | _ :: _ :: _ :: _ :: _ :: _ :: _ :: _ :: _, _, _, rfl => by simp only [List.length_cons]; omega

theorem shortens_takeBool : Shortens takeBool := by
  intro bytes a rest h
  cases bytes with
  | nil => cases h
  | cons b bytes =>
    simp only [takeBool] at h
    split at h
    · cases h; exact Nat.le_succ _
    · split at h <;> cases h
      exact Nat.le_succ _

theorem shortens_takeBitIndex : Shortens takeBitIndex := by
  intro bytes a rest h
  cases bytes with
  | nil => cases h
  | cons b bytes =>
    simp only [takeBitIndex] at h
    split at h <;> cases h
    exact Nat.le_succ _

theorem shortens_takeNat : Shortens takeNat := by
  intro bytes
  induction bytes with
  | nil => intro a rest h; cases h
  | cons b bytes ih =>
    intro a rest h
    simp only [takeNat] at h
    split at h
    · cases h; exact Nat.le_succ _
    · split at h <;> cases h
      next htail => exact Nat.le_succ_of_le (ih htail)

theorem shortens_takeTol : Shortens takeTol := by
  intro bytes a rest h
  cases bytes with
  | nil => cases h
  | cons form bytes =>
    simp only [takeTol] at h
    split at h
    · cases h; exact Nat.le_succ _
    · split at h
      · split at h
        · cases h
        next num rest' hnum =>
          split at h
          · cases h
          next den rest'' hden =>
            split at h <;> cases h
            have hfirst := shortens_takeNat hnum
            have hsecond := shortens_takeNat hden
            simp only [List.length_cons]
            omega
      · cases h

/-! ## An operation is read from its own selector -/

/-- The operation stands in the table under this selector, and no bytes were made up. -/
structure ReadFrom (sel : Byte) (bytes rest : List Byte) (i : Instr) : Prop where
  selector : i.selector = sel
  format : Format.ofSelector sel = i.format
  length : rest.length ≤ bytes.length

theorem withOperand_cases {α : Type} {mk : α → Instr} {p : Parsed α} {i : Instr} {rest : List Byte}
    (h : withOperand mk p = .ok (i, rest)) : ∃ a, p = .ok (a, rest) ∧ i = mk a := by
  unfold withOperand at h
  split at h <;> cases h
  exact ⟨_, rfl, rfl⟩

section
variable {sel : Byte} {bytes rest : List Byte} {i : Instr}

/-- A row without operands. -/
theorem ReadFrom.plain {j : Instr} (h : Except.ok (ε := DecodeError) (j, bytes) = .ok (i, rest))
    (hsel : j.selector = sel) (hformat : Format.ofSelector sel = j.format) :
    ReadFrom sel bytes rest i := by
  cases h
  exact ⟨hsel, hformat, le_rfl⟩

/-- A row with one operand. -/
theorem ReadFrom.operand {α : Type} {mk : α → Instr} {take : List Byte → Parsed α}
    (h : withOperand mk (take bytes) = .ok (i, rest)) (htake : Shortens take)
    (hsel : ∀ a, (mk a).selector = sel) (hformat : ∀ a, Format.ofSelector sel = (mk a).format) :
    ReadFrom sel bytes rest i := by
  obtain ⟨a, ha, rfl⟩ := withOperand_cases h
  exact ⟨hsel a, hformat a, htake ha⟩

theorem takeConfigure_cases (h : takeConfigure bytes = .ok (i, rest)) :
    (∃ f r c, i = .configure f r c) ∧ rest.length ≤ bytes.length := by
  unfold takeConfigure at h
  split at h
  · cases h
  next f rest₁ hf =>
    split at h
    · cases h
    next r rest₂ hr =>
      obtain ⟨c, hc, rfl⟩ := withOperand_cases h
      exact ⟨⟨f, r, c, rfl⟩, (shortens_takeU64 hc).trans
        ((shortens_takeU64 hr).trans (shortens_takeU64 hf))⟩

theorem takeNew_cases (h : takeNew bytes = .ok (i, rest)) :
    (∃ base tol, i = .new base tol) ∧ rest.length ≤ bytes.length := by
  unfold takeNew at h
  split at h
  · cases h
  next base rest₁ hbase =>
    obtain ⟨tol, htol, rfl⟩ := withOperand_cases h
    exact ⟨⟨base, tol, rfl⟩, (shortens_takeTol htol).trans (shortens_takeU64 hbase)⟩

/-- The fields of a bus selector determine it (R53). -/
theorem busSelector_fields : ∀ sel : Byte, sel.toNat / 64 = 0 →
    busSelector (sel.getLsbD 5) (sel.getLsbD 4) (BitVec.ofNat 4 (sel.toNat % 16)) = sel := by
  decide +kernel

/-- The format names the top two bits (R52). -/
theorem toNat_div_of_ofSelector : ∀ sel : Byte,
    (Format.ofSelector sel = .bus → sel.toNat / 64 = 0) ∧
    (Format.ofSelector sel = .rv → sel.toNat / 64 = 1) ∧
    (Format.ofSelector sel = .ctl → sel.toNat / 64 = 2) ∧
    (Format.ofSelector sel = .event → sel.toNat / 64 = 3) := by
  decide +kernel

theorem decodeBus_readFrom (hformat : Format.ofSelector sel = .bus)
    (h : decodeBus (sel.getLsbD 5) (sel.getLsbD 4) (sel.toNat % 16) bytes = .ok (i, rest)) :
    ReadFrom sel bytes rest i := by
  obtain ⟨hdiv, -⟩ := toNat_div_of_ofSelector sel
  have hfields := busSelector_fields sel (hdiv hformat)
  generalize sel.getLsbD 5 = write, sel.getLsbD 4 = size16, sel.toNat % 16 = offset at h hfields
  unfold decodeBus at h
  split at h
  case h_1 => exact .plain h hfields hformat
  case h_2 => exact .operand h shortens_takeU16 (fun _ => hfields) fun _ => hformat
  case h_3 => exact .plain h hfields hformat
  case h_4 => exact .operand h shortens_takeU16 (fun _ => hfields) fun _ => hformat
  case h_5 => exact .plain h hfields hformat
  case h_6 => exact .operand h shortens_takeU8 (fun _ => hfields) fun _ => hformat
  case h_7 => exact .plain h hfields hformat
  case h_8 => exact .operand h shortens_takeU16 (fun _ => hfields) fun _ => hformat
  case h_9 => cases h

/-- A selector of another format is its quotient and its remainder by 64 (R54 to R56). -/
theorem selector_eq_of_div_mod {q n : Nat} (hq : sel.toNat / 64 = q) (hn : sel.toNat % 64 = n) :
    BitVec.ofNat 8 (64 * q + n) = sel := by
  rw [← hq, ← hn, Nat.div_add_mod, BitVec.ofNat_toNat, BitVec.setWidth_eq]

theorem decodeRv_readFrom (hformat : Format.ofSelector sel = .rv)
    (h : decodeRv sel (sel.toNat % 64) bytes = .ok (i, rest)) : ReadFrom sel bytes rest i := by
  obtain ⟨-, hdiv, -⟩ := toNat_div_of_ofSelector sel
  have hsel := fun n => selector_eq_of_div_mod (n := n) (hdiv hformat)
  generalize sel.toNat % 64 = n at h hsel
  unfold decodeRv at h
  split at h
  case h_1 => exact .plain h (hsel _ rfl) hformat
  case h_2 => exact .operand h shortens_takeU16 (fun _ => hsel _ rfl) fun _ => hformat
  case h_3 => exact .plain h (hsel _ rfl) hformat
  case h_4 => exact .operand h shortens_takeU16 (fun _ => hsel _ rfl) fun _ => hformat
  case h_5 => exact .plain h (hsel _ rfl) hformat
  case h_6 => exact .operand h shortens_takeU16 (fun _ => hsel _ rfl) fun _ => hformat
  case h_7 => exact .plain h (hsel _ rfl) hformat
  case h_8 => exact .operand h shortens_takeU8 (fun _ => hsel _ rfl) fun _ => hformat
  case h_9 => exact .operand h shortens_takeBitIndex (fun _ => hsel _ rfl) fun _ => hformat
  case h_10 => exact .operand h shortens_takeBitIndex (fun _ => hsel _ rfl) fun _ => hformat
  case h_11 => exact .operand h shortens_takeBitIndex (fun _ => hsel _ rfl) fun _ => hformat
  case h_12 => cases h

theorem decodeCtl_readFrom (hformat : Format.ofSelector sel = .ctl)
    (h : decodeCtl sel (sel.toNat % 64) bytes = .ok (i, rest)) : ReadFrom sel bytes rest i := by
  obtain ⟨-, -, hdiv, -⟩ := toNat_div_of_ofSelector sel
  have hsel := fun n => selector_eq_of_div_mod (n := n) (hdiv hformat)
  generalize sel.toNat % 64 = n at h hsel
  unfold decodeCtl at h
  split at h
  case h_1 =>
    obtain ⟨⟨f, r, c, rfl⟩, hlength⟩ := takeConfigure_cases h
    exact ⟨hsel _ rfl, hformat, hlength⟩
  case h_2 => exact .operand h shortens_takeBool (fun _ => hsel _ rfl) fun _ => hformat
  case h_3 => exact .plain h (hsel _ rfl) hformat
  case h_4 => exact .plain h (hsel _ rfl) hformat
  case h_5 => exact .operand h shortens_takeBool (fun _ => hsel _ rfl) fun _ => hformat
  case h_6 => exact .plain h (hsel _ rfl) hformat
  case h_7 => exact .plain h (hsel _ rfl) hformat
  case h_8 =>
    obtain ⟨⟨base, tol, rfl⟩, hlength⟩ := takeNew_cases h
    exact ⟨hsel _ rfl, hformat, hlength⟩
  case h_9 => cases h

theorem decodeEvent_readFrom (hformat : Format.ofSelector sel = .event)
    (h : decodeEvent sel (sel.toNat % 64) bytes = .ok (i, rest)) : ReadFrom sel bytes rest i := by
  obtain ⟨-, -, -, hdiv⟩ := toNat_div_of_ofSelector sel
  have hsel := fun n => selector_eq_of_div_mod (n := n) (hdiv hformat)
  generalize sel.toNat % 64 = n at h hsel
  unfold decodeEvent at h
  split at h
  case h_1 => exact .plain h (hsel _ rfl) hformat
  case h_2 => exact .plain h (hsel _ rfl) hformat
  case h_3 => cases h

end

/-- Settles O58: the format's table, then the row. -/
theorem selectorsNameOneOperation : Obligations.SelectorsNameOneOperation := by
  intro sel bytes rest i h
  suffices hread : ReadFrom sel bytes rest i from ⟨hread.selector, hread.format, hread.length⟩
  simp only [decode] at h
  split at h
  next hformat => exact decodeBus_readFrom hformat h
  next hformat => exact decodeRv_readFrom hformat h
  next hformat => exact decodeCtl_readFrom hformat h
  next hformat => exact decodeEvent_readFrom hformat h

end Sys2Proof
end

section
/-! PROOFS. One step, and what stops it: the register window (spec/20_memory.md R34 to R37), unlisted selectors and
refused bit indices (spec/30_encoding.md R60, spec/41_registerview.md R81). -/

namespace Sys2Proof.Machine

/-! ## Stepping -/

theorem step_of_decode {s : State} {i : Instr} {rest : List Byte} (h : decode s.inbox = .ok (i, rest)) :
    step s = exec i { s with inbox := rest } := by
  cases hinbox : s.inbox with
  | nil => rw [hinbox] at h; cases h
  | cons b bytes =>
    rw [hinbox] at h
    simp [step, fetch, hinbox, h]

theorem step_of_decode_error {s : State} {b : Byte} {bytes : List Byte} {e : DecodeError}
    (hinbox : s.inbox = b :: bytes) (h : decode (b :: bytes) = .error e) : step s = stopFor e s := by
  simp [step, fetch, hinbox, h]

/-- Settles O59: the operation at the front of the stream, or nothing. -/
theorem stepRunsTheDecodedOperation : Obligations.StepRunsTheDecodedOperation := by
  refine ⟨fun s i rest => step_of_decode, fun s hinbox => ?_⟩
  simp [step, fetch, hinbox, idleStep]

/-- Settles O60, each word by running the decoder. -/
theorem sampleSelectorsDecode : Obligations.SampleSelectorsDecode :=
  ⟨rfl, rfl, rfl, rfl, rfl, rfl⟩

/-! ## Unlisted selectors -/

/-- In format BUS every selector but the eight is an access that is not admitted. -/
theorem decode_unlisted_bus {sel : Byte} (rest : List Byte) (hbus : sel.toNat < 0x40)
    (hunlisted : sel.toNat ∉ [0x10, 0x30, 0x14, 0x34, 0x08, 0x28, 0x1C, 0x3C]) :
    decode (sel :: rest) =
      .error (.notAdmitted (sel.getLsbD 5) (sel.getLsbD 4) (sel.toNat % 16)) := by
  have hfields : ∀ sel : Byte, sel.toNat < 0x40 → (sel.getLsbD 5, sel.getLsbD 4, sel.toNat % 16) ∈
      [(false, true, 0x0), (true, true, 0x0), (false, true, 0x4), (true, true, 0x4),
        (false, false, 0x8), (true, false, 0x8), (false, true, 0xC), (true, true, 0xC)] →
      sel.toNat ∈ [0x10, 0x30, 0x14, 0x34, 0x08, 0x28, 0x1C, 0x3C] := by decide +kernel
  have hnone := mt (hfields sel hbus) hunlisted
  have hformat : Format.ofSelector sel = .bus := by
    simp [Format.ofSelector, Nat.div_eq_of_lt hbus]
  simp only [decode, hformat]
  generalize sel.getLsbD 5 = write, sel.getLsbD 4 = size16, sel.toNat % 16 = offset at hnone ⊢
  unfold decodeBus
  split
  case h_9 => rfl
  all_goals exact absurd (by decide) hnone

/-- In the other formats a selector past the last row names no operation. -/
theorem decode_unlisted {sel : Byte} (rest : List Byte)
    (hunlisted : (0x4A < sel.toNat ∧ sel.toNat < 0x80) ∨ (0x87 < sel.toNat ∧ sel.toNat < 0xC0) ∨
      0xC1 < sel.toNat) : decode (sel :: rest) = .error (.invalidSelector sel) := by
  have hlt : sel.toNat < 256 := sel.isLt
  obtain ⟨h1, h2⟩ | ⟨h1, h2⟩ | h1 := hunlisted
  · have hq : sel.toNat / 64 = 1 := by omega
    obtain ⟨k, hk⟩ : ∃ k, sel.toNat % 64 = k + 11 := ⟨sel.toNat % 64 - 11, by omega⟩
    simp [decode, Format.ofSelector, hq, hk, decodeRv]
  · have hq : sel.toNat / 64 = 2 := by omega
    obtain ⟨k, hk⟩ : ∃ k, sel.toNat % 64 = k + 8 := ⟨sel.toNat % 64 - 8, by omega⟩
    simp [decode, Format.ofSelector, hq, hk, decodeCtl]
  · have hq : sel.toNat / 64 = 3 := by omega
    obtain ⟨k, hk⟩ : ∃ k, sel.toNat % 64 = k + 2 := ⟨sel.toNat % 64 - 2, by omega⟩
    simp [decode, Format.ofSelector, hq, hk, decodeEvent]

/-- Settles O8: what the decoder answers on an unlisted selector, and how the step stops on that. -/
theorem unlistedSelectorsFaultOrAreRefusedByName : Obligations.UnlistedSelectorsFaultOrAreRefusedByName := by
  intro sel rest s hinbox
  refine ⟨fun hbus hunlisted => ?bus, fun hunlisted => ?other⟩
  case bus =>
    have hstep := step_of_decode_error hinbox (decode_unlisted_bus rest hbus hunlisted)
    exact ⟨_, hstep, rfl, rfl, rfl, rfl⟩
  case other => exact step_of_decode_error hinbox (decode_unlisted rest hunlisted)

/-! ## Refused bit indices -/

/-- A number is a `bit_index` unless it is 6 or above 7 (R81). -/
theorem bitIndex_ofNat?_cases (n : Nat) :
    ((n = 6 ∨ 7 < n) ∧ BitIndex.ofNat? n = none) ∨
      ((n < 6 ∨ n = 7) ∧ ∃ i : BitIndex, BitIndex.ofNat? n = some i ∧ i.toNat = n) :=
  match n with
  | 0 => .inr ⟨by decide, .clockSelect, rfl, rfl⟩
  | 1 => .inr ⟨by decide, .pwmEnable, rfl, rfl⟩
  | 2 => .inr ⟨by decide, .pwmStart, rfl, rfl⟩
  | 3 => .inr ⟨by decide, .continuousOnce, rfl, rfl⟩
  | 4 => .inr ⟨by decide, .outputEnable, rfl, rfl⟩
  | 5 => .inr ⟨by decide, .interrupt, rfl, rfl⟩
  | 6 => .inl ⟨by decide, rfl⟩
  | 7 => .inr ⟨by decide, .resetCounter, rfl, rfl⟩
  | _ + 8 => .inl ⟨by omega, rfl⟩

/-- The single-bit helper of a selector. -/
def bitHelper (sel : Byte) (i : BitIndex) : Instr :=
  if sel = 0x48 then .setBit i else if sel = 0x49 then .clearBit i else .testBit i

theorem decode_bitHelper {sel : Byte} (hsel : sel = 0x48 ∨ sel = 0x49 ∨ sel = 0x4A) (bytes : List Byte) :
    decode (sel :: bytes) = withOperand (bitHelper sel) (takeBitIndex bytes) := by
  obtain rfl | rfl | rfl := hsel
  · exact decode_setBit bytes
  · exact decode_clearBit bytes
  · exact decode_testBit bytes

/-- Settles O17: the three helpers read their operand alike. -/
theorem bitIndexSixAndAboveSevenAreRefused : Obligations.BitIndexSixAndAboveSevenAreRefused := by
  intro s sel b rest hsel hinbox
  have hdecode := decode_bitHelper hsel (b :: rest)
  obtain ⟨hrefused, hnone⟩ | ⟨hread, i, hi, hnat⟩ := bitIndex_ofNat?_cases b.toNat
  · refine ⟨fun _ => ?_, fun hread => by omega⟩
    simp only [takeBitIndex, hnone, withOperand] at hdecode
    exact step_of_decode_error hinbox hdecode
  · refine ⟨fun hrefused => by omega, fun _ => ⟨i, hnat, ?_⟩⟩
    simp only [takeBitIndex, hi, withOperand] at hdecode
    exact step_of_decode (by rw [hinbox]; exact hdecode)

/-! ## The register window -/

theorem windowRegister_eq_some_iff {offset n : Nat} {r : Reg} :
    windowRegister offset n = some r ↔
      (offset = 0x00 ∧ n = 2 ∧ r = .wide .period) ∨ (offset = 0x04 ∧ n = 2 ∧ r = .wide .duty) ∨
      (offset = 0x08 ∧ n = 1 ∧ r = .control) ∨ (offset = 0x0C ∧ n = 2 ∧ r = .wide .clock) := by
  constructor
  · intro h
    unfold windowRegister at h
    split_ifs at h with hn ho ho ho hn ho <;> cases h
    · exact .inl ⟨ho, hn, rfl⟩
    · exact .inr (.inl ⟨ho, hn, rfl⟩)
    · exact .inr (.inr (.inr ⟨ho, hn, rfl⟩))
    · exact .inr (.inr (.inl ⟨ho, hn, rfl⟩))
  · rintro (⟨rfl, rfl, rfl⟩ | ⟨rfl, rfl, rfl⟩ | ⟨rfl, rfl, rfl⟩ | ⟨rfl, rfl, rfl⟩) <;> rfl

/-- Settles O6: the window's own table. -/
theorem windowHoldsExactlyTheFourRegisters : Obligations.WindowHoldsExactlyTheFourRegisters :=
  fun _ _ _ => windowRegister_eq_some_iff

/-- An access below the window, or at no register's offset and width, faults at its own address. -/
theorem grant_outside {address n : Nat} {s : State} (who : Issuer)
    (houtside : address < s.base.toNat ∨
      (address - s.base.toNat, n) ∉ [(0x00, 2), (0x04, 2), (0x08, 1), (0x0C, 2)]) :
    grant who address n s = .error (accessFault who address n s) := by
  unfold grant
  by_cases hbelow : address < s.base.toNat
  · rw [if_pos hbelow]
  · have hpair := houtside.resolve_left hbelow
    rw [if_neg hbelow]
    cases hwindow : windowRegister (address - s.base.toNat) n with
    | none => rfl
    | some r =>
      obtain ⟨ho, hn, -⟩ | ⟨ho, hn, -⟩ | ⟨ho, hn, -⟩ | ⟨ho, hn, -⟩ :=
        windowRegister_eq_some_iff.mp hwindow <;> simp [ho, hn] at hpair

/-- Settles O7: the access is not granted, so neither a read nor a write goes on. -/
theorem accessOutsideTheEightFaultsAndChangesNoRegister :
    Obligations.AccessOutsideTheEightFaultsAndChangesNoRegister := by
  intro who address n v s houtside
  have hfault := grant_outside who houtside
  exact ⟨by rw [memRead, hfault]; rfl, by rw [memWrite, hfault]; rfl⟩

end Sys2Proof.Machine
end

section
/-! PROOFS. The arithmetic of `configure` (spec/42_configure_pipeline.md R86 to R94): what a bit pattern denotes,
the candidates, the error of the reconstructed frequency, and the search. -/

namespace Sys2Proof.Machine

/-! ## What an `f64` denotes -/

/-- The sign bit of a pattern, as a factor. -/
def signFactor (negative : Bool) : ℚ := if negative then -1 else 1

/-- A significand scaled up or down by a power of two, with a sign, as an exact rational. -/
theorem mkRat_scaled (negative : Bool) (m e k : ℕ) :
    mkRat (if negative then -((m * 2 ^ (e - k) : ℕ) : ℤ) else (m * 2 ^ (e - k) : ℕ)) (2 ^ (k - e)) =
      signFactor negative * m * (2 : ℚ) ^ ((e : ℤ) - k) := by
  have hscale : (2 : ℚ) ^ (e - k) / 2 ^ (k - e) = 2 ^ ((e : ℤ) - k) := by
    rw [← zpow_natCast, ← zpow_natCast, ← zpow_sub₀ two_ne_zero]
    congr 1
    omega
  rw [Rat.mkRat_eq_div, ← hscale]
  cases negative <;> simp [signFactor] <;> ring

/-- A pattern that is no infinity and no NaN, subnormal or not (R57). -/
theorem f64Value_of_finite {x : F64} (hfin : (x.extractLsb' 52 11).toNat ≠ 2047) :
    f64Value x = .finite (signFactor (x.getLsbD 63) *
      ((if (x.extractLsb' 52 11).toNat = 0 then (x.extractLsb' 0 52).toNat
        else 2 ^ 52 + (x.extractLsb' 0 52).toNat : ℕ) : ℚ) *
      (2 : ℚ) ^ (((if (x.extractLsb' 52 11).toNat = 0 then 1 else (x.extractLsb' 52 11).toNat : ℕ) : ℤ) -
        (1075 : ℕ))) := by
  rw [← mkRat_scaled]
  exact if_neg hfin

theorem toNat_eq_zero_iff_eq_zero {w : ℕ} (x : BitVec w) : x.toNat = 0 ↔ x = 0 :=
  ⟨fun h => BitVec.eq_of_toNat_eq (by simpa using h), fun h => by simp [h]⟩

/-- Settles O18: a finite pattern is a significand scaled by a power of two; the rest is told by its fraction. -/
theorem finiteF64DenotesItsExactRational : Obligations.FiniteF64DenotesItsExactRational := by
  intro x
  refine ⟨fun hexp => ?subnormal, fun hexp hfin => ?normal, fun hexp => ?special⟩
  case subnormal =>
    rw [f64Value_of_finite (by omega), if_pos hexp, if_pos hexp]
    rfl
  case normal =>
    rw [f64Value_of_finite hfin, if_neg hexp, if_neg hexp]
    push_cast
    rfl
  case special => simp only [f64Value, hexp, if_true, toNat_eq_zero_iff_eq_zero]

/-! ## Candidates -/

theorem fits_iff {P : ℕ} : fits P = true ↔ 1 ≤ P ∧ P ≤ 65535 := by simp [fits]

theorem withinTolerance_iff {D tol : ℚ} {p P : ℕ} :
    withinTolerance D tol p P = true ↔ |D - (p : ℚ) * P| ≤ tol * p * P := by
  simp [withinTolerance]

theorem le_roundHalfUp_iff {x : ℚ} {n : ℕ} (hn : n ≠ 0) : n ≤ roundHalfUp x ↔ (n : ℚ) ≤ x + 1 / 2 := by
  rw [roundHalfUp_eq_floor, ← Int.cast_natCast, ← Int.le_floor]
  omega

theorem roundHalfUp_mono {x y : ℚ} (h : x ≤ y) : roundHalfUp x ≤ roundHalfUp y := by
  rw [roundHalfUp_eq_floor, roundHalfUp_eq_floor]
  exact Int.toNat_le_toNat (Int.floor_le_floor (by linarith))

/-- A candidate is off by at most half a prescaler tick (R91). -/
theorem abs_sub_candidate_le {D : ℚ} {p : ℕ} (hD : 0 ≤ D) (hp : 1 ≤ p) :
    |D - p * (candidate D p : ℚ)| ≤ p / 2 := by
  have hp0 : (0 : ℚ) < p := by exact_mod_cast hp
  have hround := abs_sub_roundHalfUp_le (div_nonneg hD hp0.le)
  have hfactor : D - p * (candidate D p : ℚ) = p * (D / p - roundHalfUp (D / p)) := by
    rw [candidate, mul_sub, mul_div_cancel₀ D hp0.ne']
  rw [hfactor, abs_mul, abs_of_pos hp0]
  linarith [mul_le_mul_of_nonneg_left hround hp0.le]

theorem candidate_antitone {D : ℚ} {p q : ℕ} (hD : 0 < D) (hp : 1 ≤ p) (hpq : p ≤ q) :
    candidate D q ≤ candidate D p := by
  have hp0 : (0 : ℚ) < p := by exact_mod_cast hp
  exact roundHalfUp_mono (div_le_div_of_nonneg_left hD.le hp0 (by exact_mod_cast hpq))

/-! ## The error of the reconstructed frequency -/

/-- The relative error by registers and by divisor (R91). -/
theorem frequency_error_eq {S f : ℚ} {p P : ℕ} (hf : 0 < f) (hp : 1 ≤ p) (hP : 1 ≤ P) :
    |S / (2 * (p : ℚ) * P) - f| / f = |divisor S f - (p : ℚ) * P| / ((p : ℚ) * P) := by
  have hp0 : (0 : ℚ) < p := by exact_mod_cast hp
  have hP0 : (0 : ℚ) < P := by exact_mod_cast hP
  rw [← abs_of_pos hf, ← abs_div, abs_of_pos hf, ← abs_of_pos (mul_pos hp0 hP0), ← abs_div,
    abs_of_pos (mul_pos hp0 hP0)]
  congr 1
  rw [divisor]
  field_simp

/-- The test of the search bounds the relative error (R92). -/
theorem withinTolerance_iff_error_le {D tol : ℚ} {p P : ℕ} (hp : 1 ≤ p) (hP : 1 ≤ P) :
    withinTolerance D tol p P = true ↔ |D - (p : ℚ) * P| / ((p : ℚ) * P) ≤ tol := by
  have hp0 : (0 : ℚ) < p := by exact_mod_cast hp
  have hP0 : (0 : ℚ) < P := by exact_mod_cast hP
  rw [withinTolerance_iff, div_le_iff₀ (mul_pos hp0 hP0), mul_assoc]

/-- Settles O20: the two forms, the test, and the half tick of a candidate. -/
theorem errorFormsAgreeAndRoundingErrorIsBounded : Obligations.ErrorFormsAgreeAndRoundingErrorIsBounded := by
  intro S f tol p hS hf hp hfits
  obtain ⟨hP, -⟩ := fits_iff.mp hfits
  have hp0 : (0 : ℚ) < p := by exact_mod_cast hp
  have hP0 : (0 : ℚ) < candidate (divisor S f) p := by exact_mod_cast hP
  have hD : 0 ≤ divisor S f := by rw [divisor]; positivity
  rw [frequency_error_eq hf hp hP]
  refine ⟨rfl, withinTolerance_iff_error_le hp hP, ?_⟩
  calc |divisor S f - p * (candidate (divisor S f) p : ℚ)| / (p * candidate (divisor S f) p)
      ≤ (p / 2) / (p * candidate (divisor S f) p) := by gcongr; exact abs_sub_candidate_le hD hp
    _ = 1 / (2 * candidate (divisor S f) p) := by field_simp

/-! ## The search -/

theorem search_eq_some_iff {D tol : ℚ} {p P : ℕ} :
    search D tol = some (p, P) ↔
      (1 ≤ p ∧ p ≤ 65535) ∧ accepts D tol p = true ∧ P = candidate D p ∧
        ∀ q, 1 ≤ q → q < p → accepts D tol q = false := by
  have hfind : ∀ k, (List.range' 1 65535).find? (accepts D tol) = some k ↔
      accepts D tol k = true ∧ (1 ≤ k ∧ k ≤ 65535) ∧ ∀ q, 1 ≤ q → q < k → accepts D tol q = false := by
    intro k
    rw [List.find?_range'_eq_some, List.mem_range'_1, Nat.lt_succ_iff (n := 65535)]
    simp
  simp only [search, Option.map_eq_some_iff, Prod.mk.injEq, hfind]
  constructor
  · rintro ⟨k, ⟨haccept, hrange, hleast⟩, rfl, rfl⟩
    exact ⟨hrange, haccept, rfl, hleast⟩
  · rintro ⟨hrange, haccept, rfl, hleast⟩
    exact ⟨p, ⟨haccept, hrange, hleast⟩, rfl, rfl⟩

/-- No prescaler is accepted, so the search fails (R92). -/
theorem search_eq_none {D tol : ℚ} (h : ∀ p, 1 ≤ p → p ≤ 65535 → fits (candidate D p) = false) :
    search D tol = none := by
  by_contra hsome
  obtain ⟨⟨p, P⟩, hp⟩ := Option.ne_none_iff_exists'.mp hsome
  obtain ⟨⟨h1, h2⟩, haccept, -, -⟩ := search_eq_some_iff.mp hp
  simp [accepts, h p h1 h2] at haccept

/-- Settles O21: the first prescaler accepted, with the acceptance written out. -/
theorem searchReturnsTheSmallestAcceptedPrescaler :
    Obligations.SearchReturnsTheSmallestAcceptedPrescaler := by
  intro D tol p P
  rw [search_eq_some_iff]
  simp only [Bool.eq_false_iff, ne_eq, accepts_iff, candidate]
  constructor
  · rintro ⟨⟨h1, h2⟩, ⟨hlow, hhigh, htol⟩, rfl, hleast⟩
    exact ⟨h1, h2, rfl, hlow, hhigh, htol, hleast⟩
  · rintro ⟨h1, h2, rfl, hlow, hhigh, htol, hleast⟩
    exact ⟨⟨h1, h2⟩, ⟨hlow, hhigh, htol⟩, rfl, hleast⟩

/-- A first fitting prescaler above 1 comes after one whose candidate was too large (R92 fact 2). -/
theorem first_fitting_candidate_ge {D : ℚ} {p : ℕ} (hD : 0 < D) (hp : 2 ≤ p)
    (hfits : fits (candidate D p) = true) (hprev : fits (candidate D (p - 1)) = false) :
    32768 ≤ candidate D p := by
  obtain ⟨hlow, -⟩ := fits_iff.mp hfits
  have hmono := candidate_antitone hD (p := p - 1) (q := p) (by omega) (by omega)
  have hlarge : 65536 ≤ candidate D (p - 1) := by
    have hnot := fits_iff.not.mp (Bool.eq_false_iff.mp hprev)
    omega
  have hp1 : (1 : ℚ) ≤ ((p - 1 : ℕ) : ℚ) := by exact_mod_cast (by omega : 1 ≤ p - 1)
  have hcast : ((p - 1 : ℕ) : ℚ) = p - 1 := by push_cast [Nat.cast_sub (show 1 ≤ p by omega)]; ring
  rw [hcast] at hp1
  rw [candidate, le_roundHalfUp_iff (by norm_num), hcast] at hlarge
  rw [candidate, le_roundHalfUp_iff (by norm_num)]
  have hprevious : 131071 / 2 * ((p : ℚ) - 1) ≤ D := by
    rw [← le_div_iff₀ (by linarith)]
    push_cast at hlarge
    linarith
  have hnext : (131071 / 4 : ℚ) ≤ D / p := by
    rw [le_div_iff₀ (by linarith)]
    linarith
  push_cast
  linarith

/-- Such a candidate is within every tolerance of at least 2^-16, as it is off by half a tick at most. -/
theorem withinTolerance_of_large {D tol : ℚ} {p : ℕ} (hD : 0 < D) (hp : 1 ≤ p)
    (hlarge : 32768 ≤ candidate D p) (htol : 1 / 2 ^ 16 ≤ tol) :
    withinTolerance D tol p (candidate D p) = true := by
  have hp0 : (0 : ℚ) < p := by exact_mod_cast hp
  have hP : (32768 : ℚ) ≤ candidate D p := by exact_mod_cast hlarge
  rw [withinTolerance_iff]
  calc |D - p * (candidate D p : ℚ)| ≤ p / 2 := abs_sub_candidate_le hD.le hp
    _ = 1 / 2 ^ 16 * p * 32768 := by ring
    _ ≤ tol * p * candidate D p := by gcongr

/-- Settles O22: the candidates do not increase, so the first that fits is large, or none fits. -/
theorem searchFactsOnCandidatesAndRange : Obligations.SearchFactsOnCandidatesAndRange := by
  refine ⟨fun D p q hD hp hpq => candidate_antitone hD hp hpq, ?first, ?small, ?large⟩
  case first =>
    intro D tol p hD hp hmax hfits hnone htol
    have hP := first_fitting_candidate_ge hD hp hfits (hnone (p - 1) (by omega) (by omega))
    refine ⟨hP, search_eq_some_iff.mpr ⟨⟨by omega, hmax⟩, ?_, rfl, fun q h1 hq => ?_⟩⟩
    · rw [accepts, hfits, withinTolerance_of_large hD (by omega) hP htol, Bool.and_self]
    · rw [accepts, hnone q h1 hq, Bool.false_and]
  case small =>
    intro D tol hD hsmall
    refine search_eq_none fun p hp _ => ?_
    have hp1 : (1 : ℚ) ≤ p := by exact_mod_cast hp
    have hquot : D / p ≤ D := div_le_self hD.le hp1
    refine Bool.eq_false_iff.mpr fun hfits => ?_
    have hlow := (le_roundHalfUp_iff one_ne_zero).mp (fits_iff.mp hfits).1
    push_cast at hlow
    linarith
  case large =>
    intro D tol hD
    refine search_eq_none fun p hp hmax => ?_
    have hp0 : (0 : ℚ) < p := by exact_mod_cast hp
    have hmaxq : (p : ℚ) ≤ 65535 := by exact_mod_cast hmax
    have hquot : (131071 / 2 : ℚ) ≤ D / p := by
      rw [le_div_iff₀ hp0]
      linarith
    refine Bool.eq_false_iff.mpr fun hfits => ?_
    have hover : 65536 ≤ candidate D p := by
      rw [candidate, le_roundHalfUp_iff (by norm_num)]
      push_cast
      linarith
    exact absurd (fits_iff.mp hfits).2 (by omega)

/-- Settles O23: a ratio of at most 1 rounds to at most the period. -/
theorem dutyLiesWithinThePeriodAndTheClampIsIdle :
    Obligations.DutyLiesWithinThePeriodAndTheClampIsIdle := by
  intro r P h0 h1
  have hP : roundHalfUp (P : ℚ) = P := by
    have hround := intCast_roundHalfUp (Nat.cast_nonneg (α := ℚ) P)
    rw [round_natCast] at hround
    exact_mod_cast hround
  have hle : roundHalfUp (r * P) ≤ P :=
    (roundHalfUp_mono (mul_le_of_le_one_left (Nat.cast_nonneg P) h1)).trans hP.le
  have hduty : dutyFor r P = roundHalfUp (r * P) := by
    simp [dutyFor, clamp, Nat.not_lt.mpr hle]
  exact ⟨hduty, hduty ▸ hle⟩

end Sys2Proof.Machine
end

section
/-! PROOFS. The whole next state of an operation that is one transaction, under `MAPPED`
(spec/40_bus_transactions.md R65 to R71, spec/41_registerview.md R74 to R84, spec/43_control_sequencing.md R109),
of a construction (R101), and of the hardware's events (spec/44_hardware_events.md R115 to R118). -/

namespace Sys2Proof.Machine

/-! ## One write, one bit test -/

/-- One 16-bit write: the register, the result and the record change. -/
theorem performOk_write16_mapped {s : State} (h : s.cfg.mapped = true) (r : WideReg) (v : U16) :
    performOk (fun _ => .unit) (write16 (wideOffset r) v) s = .next { wideSet r v s with
      result := .ok .unit, trace := [.write16 .own (wideOffset r) v] } := by
  rw [performOk_of_ok (write16_mapped (s := { s with trace := [] }) h r v)]
  cases r <;> rfl

/-- One write of CONTROL: CONTROL, the result and the record change. -/
theorem performOk_write8_mapped {s : State} (h : s.cfg.mapped = true) (v : U8) :
    performOk (fun _ => .unit) (write8 controlOffset v) s = .next { s with
      control := controlWrite s.control v, result := .ok .unit,
      trace := [.write8 .own controlOffset v] } := by
  rw [performOk_of_ok (write8_mapped (s := { s with trace := [] }) h v), controlSet_eq]
  rfl

/-- One bit test: the result and the record change. -/
theorem performOk_testBit_mapped {s : State} (h : s.cfg.mapped = true) (i : BitIndex) :
    performOk .bool (testBit i) s = .next { s with
      result := .ok (.bool (flag i s.control)), trace := [.read8 .own controlOffset s.control] } :=
  performOk_of_ok (testBit_mapped (s := { s with trace := [] }) h i)

/-- Settles O10: each bus write decodes from its selector and is one write of its register. -/
theorem wideBusWritesStoreTheValueAndNothingElse :
    Obligations.WideBusWritesStoreTheValueAndNothingElse := by
  intro s v rest h
  exact ⟨(decode_write16Period _).trans (withOperand_ok (takeU16_bytes v rest)),
    performOk_write16_mapped h .period v,
    (decode_write16Duty _).trans (withOperand_ok (takeU16_bytes v rest)),
    performOk_write16_mapped h .duty v,
    (decode_write16Clock _).trans (withOperand_ok (takeU16_bytes v rest)),
    performOk_write16_mapped h .clock v⟩

/-- Settles O13: each setter decodes from its selector and is one write of its register. -/
theorem registerViewWideWritesStoreWithoutValidation :
    Obligations.RegisterViewWideWritesStoreWithoutValidation := by
  intro s v rest h
  exact ⟨(decode_writePeriod _).trans (withOperand_ok (takeU16_bytes v rest)),
    performOk_write16_mapped h .period v,
    (decode_writeDuty _).trans (withOperand_ok (takeU16_bytes v rest)),
    performOk_write16_mapped h .duty v,
    (decode_writeClock _).trans (withOperand_ok (takeU16_bytes v rest)),
    performOk_write16_mapped h .clock v⟩

theorem channelState_eq_stopped_iff {c : U8} : channelState c = .stopped ↔ flag .pwmStart c = false := by
  simp [channelState]

/-- Settles O11: one write of CONTROL, whose bits 2 and 5 R63 gives. -/
theorem controlBusWriteIsControlWrite : Obligations.ControlBusWriteIsControlWrite := by
  intro s v rest h
  refine ⟨(decode_write8Control _).trans (withOperand_ok (takeU8_bytes v rest)),
    performOk_write8_mapped h v, ?_, controlWrite_interrupt s.control v⟩
  rw [channelState_eq_stopped_iff, flag_pwmStart]
  exact iff_of_eq (congrArg (· = false) (controlWrite_stored s.control v (by decide)))

/-- Settles O14: one read, and one write, of the whole of CONTROL. -/
theorem registerViewControlAccessorsAreRaw : Obligations.RegisterViewControlAccessorsAreRaw := by
  intro s v rest h
  exact ⟨decode_readControl rest, performOk_read8_mapped h,
    (decode_writeControl _).trans (withOperand_ok (takeU8_bytes v rest)), performOk_write8_mapped h v⟩

/-- The flag as R84 computes it. -/
theorem flag_eq_shift : ∀ (i : BitIndex) (c : U8), flag i c = decide ((c >>> i.toNat) &&& 1 = 1) := by
  intro i
  cases i <;> decide +kernel

/-- Settles O16: one bit test, with the flag as R84 computes it. -/
theorem testBitAnswersTheBitWithOneRead : Obligations.TestBitAnswersTheBitWithOneRead := by
  intro s i rest h
  refine ⟨(decode_testBit _).trans (withOperand_ok (takeBitIndex_bytes i rest)), ?_⟩
  rw [← flag_eq_shift]
  exact performOk_testBit_mapped h i

/-- Settles O35: the bit test of bit 5. -/
theorem interruptOccurredReadsBitFive : Obligations.InterruptOccurredReadsBitFive := by
  intro s rest h
  exact ⟨decode_interruptOccurred rest, performOk_testBit_mapped h .interrupt⟩

/-! ## Construction -/

theorem admitted_iff {base : Address} {tol : ℚ} :
    (baseAdmitted base && tolAdmitted tol) = true ↔
      base.toNat % 4 = 0 ∧ base.toNat + 0x0F < 2 ^ 64 ∧ 0 ≤ tol := by
  simp [baseAdmitted, tolAdmitted, and_assoc]

/-- Settles O37: the arguments are admitted and stored, or the construction is refused. -/
theorem constructionStoresBaseAndToleranceOnly : Obligations.ConstructionStoresBaseAndToleranceOnly := by
  intro s base tol
  refine ⟨fun halign hwindow htol => ?admitted, fun hbad => ?refused⟩
  case admitted => exact if_pos (admitted_iff.mpr ⟨halign, hwindow, htol⟩)
  case refused =>
    refine if_neg fun hadmitted => ?_
    obtain ⟨halign, hwindow, htol⟩ := admitted_iff.mp hadmitted
    obtain hbad | hbad | hbad := hbad
    · exact hbad halign
    · omega
    · exact absurd htol (not_le.mpr hbad)

/-! ## The hardware's events -/

theorem exec_event_of_enabled {e : HwEvent} {s : State} (h : eventEnabled s.cfg s.control e = true) :
    exec (eventInstr e) s =
      .next { s with control := eventEffect s.control e, trace := [.event e] } := by
  rw [exec_eventInstr, hwEvent, if_pos h]
  rfl

theorem exec_event_of_disabled {e : HwEvent} {s : State} (h : eventEnabled s.cfg s.control e = false) :
    exec (eventInstr e) s = .next { s with trace := [] } := by
  rw [exec_eventInstr, hwEvent, if_neg (by simpa using h)]

/-- Settles O38: the enabling condition is bit 2, and the effect is R116's. -/
theorem cycleCompletionRaisesInterruptAndStopsOnceMode :
    Obligations.CycleCompletionRaisesInterruptAndStopsOnceMode :=
  fun _ => ⟨Iff.rfl, exec_event_of_enabled (e := .cycleComplete)⟩

/-- Settles O39: the enabling condition is the parameter and bit 7, and the effect is R118's. -/
theorem autoClearClearsTheResetCounterBit : Obligations.AutoClearClearsTheResetCounterBit := by
  intro s
  refine ⟨Bool.and_eq_true_iff, fun hparam hbit => ?_⟩
  exact exec_event_of_enabled (e := .resetAutoClear) (Bool.and_eq_true_iff.mpr ⟨hparam, hbit⟩)

/-- Settles O40: without its condition an event does not occur, and none touches the other bits. -/
theorem disabledEventsDoNotOccur : Obligations.DisabledEventsDoNotOccur := by
  refine ⟨fun s hstart => exec_event_of_disabled (e := .cycleComplete) hstart, fun s hoff => ?_,
    fun s e => (hwEvent_calm e s).control.others⟩
  refine exec_event_of_disabled (e := .resetAutoClear) (Bool.and_eq_false_iff.mpr hoff)

/-! ## Reset and packing -/

/-- The mask of R32 clears bits 7, 5 and 2 and no other. -/
theorem getLsbD_resetMask (c : U8) (k : ℕ) :
    (c &&& 0x5B).getLsbD k = (c.getLsbD k && (0x5B#8).getLsbD k) :=
  BitVec.getLsbD_and

/-- Settles O1: the reset mask, bit by bit, and two values of the parameters. -/
theorem resetLeavesOpenRegistersToParametersAndStartsStopped :
    Obligations.ResetLeavesOpenRegistersToParametersAndStartsStopped := by
  have hkept : ∀ (v : ResetValues) (cfg : Config) (k : ℕ), (0x5B#8).getLsbD k = true →
      (State.resetWith v cfg).control.getLsbD k = v.control.getLsbD k := fun v cfg k hk => by
    rw [resetWith_control, getLsbD_resetMask, hk, Bool.and_true]
  have hcleared : ∀ (v : ResetValues) (cfg : Config) (k : ℕ), (0x5B#8).getLsbD k = false →
      (State.resetWith v cfg).control.getLsbD k = false := fun v cfg k hk => by
    rw [resetWith_control, getLsbD_resetMask, hk, Bool.and_false]
  refine ⟨fun v cfg => ⟨rfl, rfl, rfl, hcleared v cfg 2 rfl, hcleared v cfg 7 rfl, hcleared v cfg 5 rfl,
    hkept v cfg 6 rfl, hkept v cfg 4 rfl, hkept v cfg 3 rfl, hkept v cfg 1 rfl, hkept v cfg 0 rfl⟩,
    fun cfg => ⟨.chosen, rfl⟩, fun cfg => ⟨⟨1, 0, 1, 0⟩, rfl⟩⟩

/-- Settles O2: with bits 7, 5 and 2 at 0, no event is enabled and nothing is requested. -/
theorem noEventIsEnabledAtResetAndTheMachineIdles :
    Obligations.NoEventIsEnabledAtResetAndTheMachineIdles := by
  refine ⟨fun v cfg e => ?_, rfl⟩
  obtain ⟨-, -, -, hstart, hreset, hinterrupt, -⟩ :=
    resetLeavesOpenRegistersToParametersAndStartsStopped.1 v cfg
  refine ⟨?_, hinterrupt, channelState_of_not_started hstart, stepRunsTheDecodedOperation.2 _ rfl⟩
  cases e with
  | cycleComplete => exact hstart
  | resetAutoClear => rw [eventEnabled, hreset, Bool.and_false]

/-- The bits of a packed CONTROL are its fields (R16). -/
theorem getLsbD_packControl (f : ControlFields) :
    (packControl f).getLsbD 7 = (f.resetCounter == .reset) ∧ (packControl f).getLsbD 6 = f.reserved ∧
    (packControl f).getLsbD 5 = (f.interrupt == .occurred) ∧
    (packControl f).getLsbD 4 = (f.outputEnable == .enabled) ∧
    (packControl f).getLsbD 3 = (f.runMode == .continuous) ∧
    (packControl f).getLsbD 2 = (f.start == .started) ∧ (packControl f).getLsbD 1 = (f.mode == .pwm) ∧
    (packControl f).getLsbD 0 = (f.clockSource == .external) := by
  simp only [packControl, BitVec.getLsbD_append, BitVec.getLsbD_ofBool]
  simp

/-- Settles O5: all 256 values one way, and field by field the other. -/
theorem controlPackingAndUnpackingAreInverse : Obligations.ControlPackingAndUnpackingAreInverse := by
  refine ⟨by decide +kernel, fun f => ?_⟩
  obtain ⟨h7, h6, h5, h4, h3, h2, h1, h0⟩ := getLsbD_packControl f
  obtain ⟨resetCounter, reserved, interrupt, outputEnable, runMode, start, mode, clockSource⟩ := f
  simp only [unpackControl, flag, reservedBit, BitIndex.toNat, h7, h6, h5, h4, h3, h2, h1, h0,
    runModeOfBool, clockSourceOfBool, ControlFields.mk.injEq]
  refine ⟨?_, trivial, ?_, ?_, ?_, ?_, ?_, ?_⟩
  · cases resetCounter <;> rfl
  · cases interrupt <;> rfl
  · cases outputEnable <;> rfl
  · cases runMode <;> rfl
  · cases start <;> rfl
  · cases mode <;> rfl
  · cases clockSource <;> rfl

end Sys2Proof.Machine
end

section
/-! PROOFS. Operations made of read-modify-writes of CONTROL with nothing between their transactions, under
`MAPPED` (spec/41_registerview.md R82, R83, spec/43_control_sequencing.md R102 to R110). -/

namespace Sys2Proof.Machine

/-! ## A sequence of read-modify-writes, alone -/

/-- CONTROL after read-modify-writes by these words. -/
def wordsControl : List (U8 → U8) → U8 → U8
  | [], c => c
  | f :: words, c => wordsControl words (controlWrite c (f c))

/-- What read-modify-writes by these words leave in the record. -/
def wordsTrace : List (U8 → U8) → U8 → List Entry
  | [], _ => []
  | f :: words, c =>
    .read8 .own 0x08 c :: .write8 .own 0x08 (f c) :: wordsTrace words (controlWrite c (f c))

/-- The state after read-modify-writes by these words. -/
def afterWords (words : List (U8 → U8)) (s : State) : State :=
  { s with control := wordsControl words s.control, trace := s.trace ++ wordsTrace words s.control }

theorem wordsControl_append (words words' : List (U8 → U8)) :
    ∀ c, wordsControl (words ++ words') c = wordsControl words' (wordsControl words c) := by
  induction words with
  | nil => exact fun _ => rfl
  | cons f words ih => exact fun c => ih _

theorem wordsTrace_append (words words' : List (U8 → U8)) :
    ∀ c, wordsTrace (words ++ words') c = wordsTrace words c ++ wordsTrace words' (wordsControl words c) := by
  induction words with
  | nil => exact fun _ => rfl
  | cons f words ih => exact fun c => congrArg (_ :: _ :: ·) (ih _)

theorem afterWords_append (words words' : List (U8 → U8)) (s : State) :
    afterWords words' (afterWords words s) = afterWords (words ++ words') s := by
  simp [afterWords, wordsControl_append, wordsTrace_append]

/-- Under `MAPPED`, with nothing between its transactions, `op` is read-modify-writes by these words. -/
def RunsWords (op : State → Bus Unit) (words : List (U8 → U8)) : Prop :=
  ∀ ⦃s : State⦄, s.cfg.mapped = true → s.gaps = [] → op s = .ok ((), afterWords words s)

theorem runsWords_modifyControl (f : U8 → U8) : RunsWords (modifyControl f) [f] := by
  intro s h hg
  rw [modifyControl_alone h hg, controlSet_eq]
  simp [log, afterWords, wordsControl, wordsTrace, controlOffset]

theorem runsWords_andThenGap {op : State → Bus Unit} {k : Unit → State → Bus Unit}
    {words words' : List (U8 → U8)} (hop : RunsWords op words) (hk : RunsWords (k ()) words') :
    RunsWords (fun s => andThenGap (op s) k) (words ++ words') := by
  intro s h hg
  have hgap : gap (afterWords words s) = .ok ((), afterWords words s) := gap_of_nil hg
  show andThenGap (op s) k = _
  rw [hop h hg, andThenGap_ok, hgap, andThen_ok, ← afterWords_append]
  exact hk h hg

theorem performOk_words {op : State → Bus Unit} {words : List (U8 → U8)} (hop : RunsWords op words)
    {s : State} (h : s.cfg.mapped = true) (hg : s.gaps = []) :
    performOk (fun _ => .unit) op s = .next { s with
      control := wordsControl words s.control, result := .ok .unit,
      trace := wordsTrace words s.control } := by
  rw [performOk_of_ok (hop (s := { s with trace := [] }) h hg)]
  rfl

theorem performOk_modifyControl {s : State} (h : s.cfg.mapped = true) (hg : s.gaps = []) (f : U8 → U8) :
    performOk (fun _ => .unit) (modifyControl f) s = .next { s with
      control := controlWrite s.control (f s.control), result := .ok .unit,
      trace := [.read8 .own 0x08 s.control, .write8 .own 0x08 (f s.control)] } :=
  performOk_words (runsWords_modifyControl f) h hg

/-! ## The single-bit helpers and the acknowledge -/

/-- CONTROL after `set_bit`: the bit is set, but a written 1 clears bit 5 (R82). -/
theorem controlWrite_setBitWord (i : BitIndex) (c : U8) :
    controlWrite c (setBitWord i c) = if i = .interrupt then c &&& 0xDF else c ||| (1#8 <<< i.toNat) := by
  revert c
  cases i <;> decide +kernel

/-- CONTROL after `clear_bit`: the bit is clear, but a written 0 keeps bit 5 (R83). -/
theorem controlWrite_clearBitWord (i : BitIndex) (c : U8) :
    controlWrite c (clearBitWord i c) =
      if i = .interrupt then c else c &&& ~~~(1#8 <<< i.toNat) := by
  revert c
  cases i <;> decide +kernel

/-- Settles O15: one read-modify-write each, by its word. -/
theorem setAndClearBitForceOneBitAndKeepTheRest :
    Obligations.SetAndClearBitForceOneBitAndKeepTheRest := by
  intro s i h hg
  rw [← controlWrite_setBitWord, ← controlWrite_clearBitWord]
  exact ⟨performOk_modifyControl h hg (setBitWord i), performOk_modifyControl h hg (clearBitWord i)⟩

/-- Writing back what was read clears bit 5 and keeps the rest (R110). -/
theorem controlWrite_self (c : U8) : controlWrite c c = c &&& 0xDF := by
  revert c
  decide +kernel

theorem exec_acknowledgeInterrupt_alone {s : State} (h : s.cfg.mapped = true) (hg : s.gaps = []) :
    exec .acknowledgeInterrupt s = .next { s with
      control := s.control &&& 0xDF, result := .ok .unit,
      trace := [.read8 .own 0x08 s.control, .write8 .own 0x08 s.control] } := by
  rw [← controlWrite_self]
  exact performOk_modifyControl h hg fun c => c

/-! ## `start`, `stop` and `reset_counter` -/

/-- The words of `start` (R102). -/
def startWords (continuous : Bool) : List (U8 → U8) :=
  [setBitWord .outputEnable, setBitWord .pwmEnable,
    if continuous then setBitWord .continuousOnce else clearBitWord .continuousOnce, setBitWord .pwmStart]

theorem runsWords_startOp (continuous : Bool) : RunsWords (startOp continuous) (startWords continuous) := by
  refine runsWords_andThenGap (runsWords_modifyControl _) (runsWords_andThenGap (runsWords_modifyControl _)
    (runsWords_andThenGap (words := [_]) ?_ (runsWords_modifyControl _)))
  cases continuous with
  | true => exact runsWords_modifyControl (setBitWord .continuousOnce)
  | false => exact runsWords_modifyControl (clearBitWord .continuousOnce)

/-- The words `start` writes on the values it reads, and CONTROL after each. -/
theorem start_steps : ∀ c : U8,
    setBitWord .outputEnable c = (c &&& 0xDF#8) ||| 0x10#8 ∧
    controlWrite c ((c &&& 0xDF#8) ||| 0x10#8) = c ||| 0x10#8 ∧
    setBitWord .pwmEnable (c ||| 0x10#8) = (c &&& 0xDF#8) ||| 0x12#8 ∧
    controlWrite (c ||| 0x10#8) ((c &&& 0xDF#8) ||| 0x12#8) = c ||| 0x12#8 ∧
    setBitWord .continuousOnce (c ||| 0x12#8) = (c &&& 0xDF#8) ||| 0x1A#8 ∧
    controlWrite (c ||| 0x12#8) ((c &&& 0xDF#8) ||| 0x1A#8) = c ||| 0x1A#8 ∧
    setBitWord .pwmStart (c ||| 0x1A#8) = (c &&& 0xDF#8) ||| 0x1E#8 ∧
    controlWrite (c ||| 0x1A#8) ((c &&& 0xDF#8) ||| 0x1E#8) = c ||| 0x1E#8 ∧
    clearBitWord .continuousOnce (c ||| 0x12#8) = (c &&& 0xD7#8) ||| 0x12#8 ∧
    controlWrite (c ||| 0x12#8) ((c &&& 0xD7#8) ||| 0x12#8) = (c &&& 0xF7#8) ||| 0x12#8 ∧
    setBitWord .pwmStart ((c &&& 0xF7#8) ||| 0x12#8) = (c &&& 0xD7#8) ||| 0x16#8 ∧
    controlWrite ((c &&& 0xF7#8) ||| 0x12#8) ((c &&& 0xD7#8) ||| 0x16#8) = (c &&& 0xF7#8) ||| 0x16#8 := by
  decide +kernel

theorem wordsControl_start (continuous : Bool) (c : U8) : wordsControl (startWords continuous) c =
    if continuous then c ||| 0x1E else (c &&& 0xF7) ||| 0x16 := by
  cases continuous <;> simp [wordsControl, startWords, start_steps]

theorem wordsTrace_start (continuous : Bool) (c : U8) : wordsTrace (startWords continuous) c =
    [.read8 .own 0x08 c,
     .write8 .own 0x08 ((c &&& 0xDF) ||| 0x10),
     .read8 .own 0x08 (c ||| 0x10),
     .write8 .own 0x08 ((c &&& 0xDF) ||| 0x12),
     .read8 .own 0x08 (c ||| 0x12),
     .write8 .own 0x08 (if continuous then (c &&& 0xDF) ||| 0x1A else (c &&& 0xD7) ||| 0x12),
     .read8 .own 0x08 (if continuous then c ||| 0x1A else (c &&& 0xF7) ||| 0x12),
     .write8 .own 0x08 (if continuous then (c &&& 0xDF) ||| 0x1E else (c &&& 0xD7) ||| 0x16)] := by
  cases continuous <;> simp [wordsTrace, startWords, start_steps]

/-- Settles O31: four read-modify-writes, whose words give the data. -/
theorem startRunsItsFourHelpersInOrder : Obligations.StartRunsItsFourHelpersInOrder := by
  intro s continuous h hg
  rw [← wordsControl_start, ← wordsTrace_start]
  exact performOk_words (runsWords_startOp continuous) h hg

/-- The words of `stop` (R104). -/
def stopWords : List (U8 → U8) := [clearBitWord .outputEnable, clearBitWord .pwmStart]

theorem wordsControl_stop : ∀ c : U8, wordsControl stopWords c = c &&& 0xEB := by
  decide +kernel

theorem wordsTrace_stop : ∀ c : U8, wordsTrace stopWords c =
    [.read8 .own 0x08 c, .write8 .own 0x08 (c &&& 0xCF), .read8 .own 0x08 (c &&& 0xEF),
     .write8 .own 0x08 (c &&& 0xCB)] := by
  decide +kernel

/-- Settles O32: two read-modify-writes, whose words give the data. -/
theorem stopClearsOutputEnableThenStart : Obligations.StopClearsOutputEnableThenStart := by
  intro s h hg
  rw [← wordsControl_stop, ← wordsTrace_stop]
  exact performOk_words (runsWords_andThenGap (runsWords_modifyControl _) (runsWords_modifyControl _)) h hg

/-- The words of `reset_counter` (R106). -/
def resetCounterWords : List (U8 → U8) := [setBitWord .resetCounter, clearBitWord .resetCounter]

theorem wordsControl_resetCounter : ∀ c : U8, wordsControl resetCounterWords c = c &&& 0x7F := by
  decide +kernel

theorem wordsTrace_resetCounter : ∀ c : U8, wordsTrace resetCounterWords c =
    [.read8 .own 0x08 c, .write8 .own 0x08 ((c &&& 0xDF) ||| 0x80), .read8 .own 0x08 (c ||| 0x80),
     .write8 .own 0x08 (c &&& 0x5F)] := by
  decide +kernel

theorem exec_resetCounter_alone {s : State} (h : s.cfg.mapped = true) (hg : s.gaps = []) :
    exec .resetCounter s = .next { s with
      control := s.control &&& 0x7F, result := .ok .unit,
      trace := [.read8 .own 0x08 s.control, .write8 .own 0x08 ((s.control &&& 0xDF) ||| 0x80),
        .read8 .own 0x08 (s.control ||| 0x80), .write8 .own 0x08 (s.control &&& 0x5F)] } := by
  rw [← wordsControl_resetCounter, ← wordsTrace_resetCounter]
  exact performOk_words (runsWords_andThenGap (runsWords_modifyControl _) (runsWords_modifyControl _)) h hg

/-! ## `select_clock_source` -/

/-- The word of `select_clock_source` (R107). -/
def clockSourceWord (external : Bool) : U8 → U8 :=
  if external then setBitWord .clockSelect else clearBitWord .clockSelect

theorem clockSourceBody_alone {s : State} (h : s.cfg.mapped = true) (hg : s.gaps = []) (external : Bool) :
    clockSourceBody external s = .ok (.ok .unit, afterWords [clockSourceWord external] s) := by
  have hmodify := runsWords_modifyControl (clockSourceWord external) h hg
  rw [clockSourceBody, gap_of_nil hg, andThen_ok]
  cases external with
  | true => exact congrArg (andThen · fun _ => returnValue .unit) hmodify
  | false => exact congrArg (andThen · fun _ => returnValue .unit) hmodify

theorem clockSourceWord_facts : ∀ (external : Bool) (c : U8),
    controlWrite c (clockSourceWord external c) = (if external then c ||| 0x01 else c &&& 0xFE) ∧
    clockSourceWord external c = if external then (c &&& 0xDF) ||| 0x01 else c &&& 0xDE := by
  decide +kernel

theorem whenStopped_of_stopped {s : State} (h : s.cfg.mapped = true)
    (hstop : flag .pwmStart s.control = false) (body : State → Bus Result) :
    whenStopped body s = body (log (.read8 .own controlOffset s.control) s) := by
  simp [whenStopped, testBit_mapped h, hstop]

/-- Settles O34: the check, and past it the read-modify-write of bit 0. -/
theorem selectClockSourceOnlyWhileStopped : Obligations.SelectClockSourceOnlyWhileStopped := by
  intro s external h hg
  refine ⟨fun hstart => perform_whenStopped_of_started h hstart _, fun hstop => ?_⟩
  obtain ⟨hcontrol, hword⟩ := clockSourceWord_facts external s.control
  rw [exec_selectClockSource, ← hcontrol, ← hword]
  have hcheck := whenStopped_of_stopped (s := { s with trace := [] }) h hstop (clockSourceBody external)
  exact perform_of_ok (hcheck.trans (clockSourceBody_alone (s := log _ { s with trace := [] }) h hg external))

end Sys2Proof.Machine
end

section
/-! PROOFS. What every operation keeps under `EXCLUSIVE_MUTATORS`, whatever falls between its transactions: a property
of the registers that the hardware and the operation's own writes keep, and a property of the record
(spec/20_memory.md R46, R47, spec/44_hardware_events.md R115). -/

namespace Sys2Proof.Machine

open Safety

/-! ## What falls between two transactions -/

/-- An entry made between two transactions of an operation: no transaction of the operation, and under
`EXCLUSIVE_MUTATORS` no write (R46, R47). -/
inductive Between (exclusive : Bool) : Entry → Prop
  | read16 (offset : Nat) (v : U16) : Between exclusive (.read16 .other offset v)
  | read8 (offset : Nat) (v : U8) : Between exclusive (.read8 .other offset v)
  | write16 (offset : Nat) (v : U16) (h : exclusive = false) : Between exclusive (.write16 .other offset v)
  | write8 (offset : Nat) (v : U8) (h : exclusive = false) : Between exclusive (.write8 .other offset v)
  | event (e : HwEvent) : Between exclusive (.event e)

/-- From `s` to `t` the record has grown by such entries only. -/
def GrowsBetween (s t : State) : Prop :=
  ∃ d, t.trace = s.trace ++ d ∧ ∀ e ∈ d, Between s.cfg.exclusiveMutators e

theorem GrowsBetween.refl (s : State) : GrowsBetween s s := ⟨[], by simp, by simp⟩

theorem GrowsBetween.one {s t : State} {e : Entry} (htrace : t.trace = s.trace ++ [e])
    (he : Between s.cfg.exclusiveMutators e) : GrowsBetween s t :=
  ⟨[e], htrace, by simpa using he⟩

theorem GrowsBetween.trans {s t u : State} (h : GrowsBetween s t) (hcfg : t.cfg = s.cfg)
    (k : GrowsBetween t u) : GrowsBetween s u := by
  obtain ⟨d, hd, hbetween⟩ := h
  obtain ⟨d', hd', hbetween'⟩ := k
  rw [hcfg] at hbetween'
  refine ⟨d ++ d', by rw [hd', hd, List.append_assoc], fun e he => ?_⟩
  exact (List.mem_append.mp he).elim (hbetween e) (hbetween' e)

theorem foreignAccess_growsBetween {s t : State} {x : Transaction}
    (hx : foreignAccess x s = .ok ((), t)) : GrowsBetween s t := by
  cases x with
  | readWide r =>
    obtain ⟨v, u, hread, hrest⟩ := andThen_cases hx
    obtain ⟨-, bf, rfl⟩ := memRead_wide_cases hread
    cases hrest
    exact .one rfl (.read16 _ _)
  | readControl =>
    obtain ⟨v, u, hread, hrest⟩ := andThen_cases hx
    obtain ⟨-, bf, rfl⟩ := memRead_control_cases hread
    cases hrest
    exact .one rfl (.read8 _ _)
  | writeWide r v =>
    simp only [foreignAccess] at hx
    split at hx
    next => cases hx; exact .refl s
    next hexclusive =>
      obtain ⟨bf, rfl⟩ := memWrite_wide_cases hx
      exact .one (e := .write16 .other (wideOffset r) v) (by simp)
        (.write16 _ _ (by simpa using hexclusive))
  | writeControl v =>
    simp only [foreignAccess] at hx
    split at hx
    next => cases hx; exact .refl s
    next hexclusive =>
      obtain ⟨bf, rfl⟩ := memWrite_control_cases hx
      exact .one (e := .write8 .other controlOffset v) (by simp)
        (.write8 _ _ (by simpa using hexclusive))

theorem occur_growsBetween {s t : State} {o : Occurrence} (ho : occur o s = .ok ((), t)) :
    GrowsBetween s t := by
  cases o with
  | event e =>
    cases ho
    obtain ⟨-, heq⟩ | ⟨-, heq⟩ := hwEvent_cases e s
    · rw [heq]; exact .refl s
    · rw [heq]; exact .one rfl (.event e)
  | foreign x => exact foreignAccess_growsBetween ho

theorem occurAll_growsBetween (l : List Occurrence) :
    ∀ {s t : State}, occurAll l s = .ok ((), t) → GrowsBetween s t := by
  induction l with
  | nil => intro s t hl; cases hl; exact .refl s
  | cons o l ih =>
    intro s t hl
    obtain ⟨_, u, hfirst, hrest⟩ := andThen_cases hl
    exact (occur_growsBetween hfirst).trans (occur_sameFrame hfirst).cfg (ih hrest)

theorem gap_growsBetween {s t : State} (hg : gap s = .ok ((), t)) : GrowsBetween s t := by
  unfold gap at hg
  split at hg
  next => cases hg; exact .refl s
  next here later _ => exact occurAll_growsBetween here (s := { s with gaps := later }) hg

theorem Calm.registers {s t : State} (h : Calm s t) :
    registersOf t = { registersOf s with control := t.control } := by
  simp [registersOf, h.period, h.duty, h.clock]

/-! ## A guarded state -/

section
variable {J : Registers → Prop} {p : Entry → Prop}

/-- The registers satisfy `J`, every entry of the record satisfies `p`, and no other context writes inside an
operation. -/
structure Guarded (J : Registers → Prop) (p : Entry → Prop) (s : State) : Prop where
  exclusive : s.cfg.exclusiveMutators = true
  registers : J (registersOf s)
  entries : ∀ e ∈ s.trace, p e

/-- Reads and events do not end a guard. -/
structure Undisturbed (J : Registers → Prop) (p : Entry → Prop) : Prop where
  hardware : ∀ r c, J r → HardwareOnly r.control c → J { r with control := c }
  read16 : ∀ who offset v, p (.read16 who offset v)
  read8 : ∀ who offset v, p (.read8 who offset v)
  event : ∀ e, p (.event e)

/-- The writes that keep a guard. A read-modify-write computes its word from the CONTROL it read, and meets the
CONTROL that the hardware has left by then. -/
def Write.Keeps (J : Registers → Prop) (p : Entry → Prop) : Write → Prop
  | .wide q => ∀ r v, J r →
      J (afterEntry r (.write16 .own (wideOffset q) v)) ∧ p (.write16 .own (wideOffset q) v)
  | .control v => ∀ r, J r →
      J { r with control := controlWrite r.control v } ∧ p (.write8 .own controlOffset v)
  | .modify f => ∀ r c, J r → HardwareOnly r.control c →
      J { r with control := controlWrite c (f r.control) } ∧ p (.write8 .own controlOffset (f r.control))

theorem Guarded.log {s : State} {e : Entry} (h : Guarded J p s) (he : p e) : Guarded J p (log e s) :=
  ⟨h.exclusive, h.registers, List.forall_mem_append.mpr ⟨h.entries, by simpa using he⟩⟩

theorem Guarded.gap (hU : Undisturbed J p) {s t : State} (h : Guarded J p s)
    (hg : gap s = .ok ((), t)) : Guarded J p t := by
  have hcalm := gap_calm h.exclusive hg
  obtain ⟨d, hd, hbetween⟩ := gap_growsBetween hg
  refine ⟨by rw [hcalm.cfg]; exact h.exclusive, ?_, ?_⟩
  · rw [hcalm.registers]
    exact hU.hardware _ _ h.registers hcalm.control
  · rw [hd]
    refine List.forall_mem_append.mpr ⟨h.entries, fun e he => ?_⟩
    cases h.exclusive ▸ hbetween e he with
    | read16 offset v => exact hU.read16 _ _ _
    | read8 offset v => exact hU.read8 _ _ _
    | write16 offset v hfalse => cases hfalse
    | write8 offset v hfalse => cases hfalse
    | event e => exact hU.event e

theorem Guarded.modifyControl (hU : Undisturbed J p) {f : U8 → U8} (hf : (Write.modify f).Keeps J p)
    {s t : State} (h : Guarded J p s) {x : Unit} (hop : modifyControl f s = .ok (x, t)) :
    Guarded J p t := by
  obtain ⟨bf, u, bf', hgap, rfl⟩ := modifyControl_cases hop
  have hread : Guarded J p (Machine.log (.read8 .own controlOffset s.control) { s with busFaults := bf }) :=
    Guarded.log (s := { s with busFaults := bf }) ⟨h.exclusive, h.registers, h.entries⟩ (hU.read8 _ _ _)
  have hu := hread.gap hU hgap
  have hcalm := gap_calm hread.exclusive hgap
  obtain ⟨hJ, hp⟩ := hf (registersOf s) u.control h.registers hcalm.control
  rw [controlSet_eq]
  refine Guarded.log ⟨hu.exclusive, ?_, hu.entries⟩ hp
  have hregisters : registersOf u = { registersOf s with control := u.control } := hcalm.registers
  have hwrite : registersOf
      { u with control := controlWrite u.control (f s.control), busFaults := bf' } =
      { registersOf u with control := controlWrite u.control (f s.control) } := rfl
  rw [hregisters] at hwrite
  rwa [hwrite]

/-- What is built of reads and of writes that keep a guard keeps it. -/
theorem Built.guarded (hU : Undisturbed J p) {allowed : List Write}
    (hw : ∀ w ∈ allowed, w.Keeps J p) {α : Type} {op : State → Bus α} (h : Built allowed op) :
    ∀ {s : State} {a : α} {t : State}, Guarded J p s → op s = .ok (a, t) → Guarded J p t := by
  induction h with
  | answer a => intro s _ t hs hop; cases hop; exact hs
  | gap => intro s _ t hs hop; exact hs.gap hU hop
  | read16 r =>
    intro s _ t hs hop
    obtain ⟨-, bf, rfl⟩ := read16_cases hop
    exact Guarded.log (s := { s with busFaults := bf }) ⟨hs.exclusive, hs.registers, hs.entries⟩
      (hU.read16 _ _ _)
  | read8 =>
    intro s _ t hs hop
    obtain ⟨-, bf, rfl⟩ := read8_cases hop
    exact Guarded.log (s := { s with busFaults := bf }) ⟨hs.exclusive, hs.registers, hs.entries⟩
      (hU.read8 _ _ _)
  | write16 r v hmem =>
    intro s _ t hs hop
    obtain ⟨bf, rfl⟩ := write16_cases hop
    obtain ⟨hJ, hp⟩ := hw _ hmem (registersOf s) v hs.registers
    refine Guarded.log ⟨by simpa using hs.exclusive, ?_, by simpa using hs.entries⟩ hp
    exact (congrArg J (registersOf_store .own (.writeWide r v) { s with busFaults := bf })).mpr hJ
  | write8 v hmem =>
    intro s _ t hs hop
    obtain ⟨bf, rfl⟩ := write8_cases hop
    obtain ⟨hJ, hp⟩ := hw _ hmem (registersOf s) hs.registers
    rw [controlSet_eq]
    exact Guarded.log ⟨hs.exclusive, hJ, hs.entries⟩ hp
  | modifyControl f hmem => intro s _ t hs hop; exact hs.modifyControl hU (hw _ hmem) hop
  | ofTol _ ih => intro s a t hs hop; exact ih _ hs hop
  | andThen _ _ ih ihk =>
    intro s b u hs hop
    obtain ⟨a, t, hfirst, hrest⟩ := andThen_cases hop
    exact ihk a (ih hs hfirst) hrest

/-- An operation whose writes keep a guard ends guarded. -/
theorem exec_guarded (hU : Undisturbed J p) {i : Instr} (hw : ∀ w ∈ writes i, w.Keeps J p) {s t : State}
    (hexclusive : s.cfg.exclusiveMutators = true) (hJ : J (registersOf s)) (h : exec i s = .next t) :
    J (registersOf t) ∧ ∀ e ∈ t.trace, p e := by
  have hstart : Guarded J p { s with trace := [] } := ⟨hexclusive, hJ, by simp⟩
  obtain ⟨op, hop, heq⟩ | ⟨base, tol, rfl⟩ | ⟨e, rfl⟩ := exec_forms i
  · rw [heq] at h
    obtain ⟨r, u, hu, rfl⟩ := perform_cases h
    have hend := hop.guarded hU hw hstart hu
    exact ⟨hend.registers, hend.entries⟩
  · obtain ⟨-, -, rfl⟩ := exec_new_cases h
    exact ⟨hJ, by simp⟩
  · rw [exec_eventInstr] at h
    cases h
    have hcalm := hwEvent_calm e { s with trace := [] }
    refine ⟨?_, fun x hx => hwEvent_trace hx ▸ hU.event e⟩
    rw [hcalm.registers]
    exact hU.hardware _ _ hJ hcalm.control

end

/-! ## One bit of CONTROL -/

theorem bitIndex_toNat_lt (i : BitIndex) : i.toNat < 8 := by cases i <;> decide

theorem getLsbD_bitMask (i : BitIndex) (k : ℕ) : (bitMask i).getLsbD k = decide (k = i.toNat) := by
  have hlt := bitIndex_toNat_lt i
  rw [bitMask, ← BitVec.twoPow_eq, BitVec.getLsbD_twoPow]
  simp [hlt, eq_comm]

theorem getLsbD_setBitWord (i : BitIndex) (c : U8) {k : ℕ} (hk : k ≠ 5) :
    (setBitWord i c).getLsbD k = (c.getLsbD k || decide (k = i.toNat)) := by
  have hmask : (c &&& ~~~0x20#8).getLsbD k = c.getLsbD k := by
    rw [show ~~~0x20#8 = 0xDF#8 by decide, BitVec.getLsbD_and, getLsbD_storedMask]
    simpa [hk.symm] using BitVec.lt_of_getLsbD
  rw [setBitWord, BitVec.getLsbD_or, hmask, getLsbD_bitMask]

theorem getLsbD_clearBitWord (i : BitIndex) (c : U8) {k : ℕ} (hk : k ≠ 5) :
    (clearBitWord i c).getLsbD k = (c.getLsbD k && !decide (k = i.toNat)) := by
  rw [clearBitWord, BitVec.getLsbD_and, BitVec.getLsbD_and, BitVec.getLsbD_not, BitVec.getLsbD_not,
    getLsbD_interruptMask, getLsbD_bitMask]
  have hlt : c.getLsbD k = true → k < 8 := BitVec.lt_of_getLsbD
  cases hc : c.getLsbD k <;> simp_all [hk.symm]

/-- `set_bit` and `clear_bit` write bit 5 as 0, except `set_bit(5)` (R81 to R83). -/
theorem flag_interrupt_setBitWord (i : BitIndex) (c : U8) :
    flag .interrupt (setBitWord i c) = decide (i = .interrupt) := by
  have hmask : (c &&& ~~~0x20#8).getLsbD 5 = false := by simp
  rw [flag, setBitWord, BitVec.getLsbD_or, BitIndex.toNat, hmask, getLsbD_bitMask]
  cases i <;> rfl

theorem flag_interrupt_clearBitWord (i : BitIndex) (c : U8) :
    flag .interrupt (clearBitWord i c) = false := by
  simp [flag, clearBitWord, BitIndex.toNat]

/-- The bits 6, 4, 3, 1 and 0 are the software's alone (R115). -/
theorem HardwareOnly.getLsbD_eq {c d : U8} (h : HardwareOnly c d) {k : ℕ}
    (hk : (0x5B#8).getLsbD k = true) : d.getLsbD k = c.getLsbD k := by
  have hbit := congrArg (BitVec.getLsbD · k) h.others
  simpa only [getLsbD_resetMask, hk, Bool.and_true] using hbit

/-- Bit 5 is not among them. -/
theorem ne_five_of_software {k : ℕ} (hk : (0x5B#8).getLsbD k = true) : k ≠ 5 := by
  rintro rfl
  exact absurd hk (by decide)

/-- The bits an operation names by single-bit writes (R82, R83, R102, R104, R106, R107). -/
def namedBits : Instr → List BitIndex
  | .setBit i | .clearBit i => [i]
  | .start _ => [.outputEnable, .pwmEnable, .continuousOnce, .pwmStart]
  | .stop => [.outputEnable, .pwmStart]
  | .resetCounter => [.resetCounter]
  | .selectClockSource _ => [.clockSelect]
  | .read16Period | .read16Duty | .read8Control | .read16Clock | .write16Period _ | .write16Duty _ => []
  | .write8Control _ | .write16Clock _ | .readPeriod | .readDuty | .readClock | .readControl => []
  | .writePeriod _ | .writeDuty _ | .writeClock _ | .writeControl _ | .testBit _ => []
  | .configure _ _ _ | .interruptOccurred | .acknowledgeInterrupt | .new _ _ => []
  | .hwCycleComplete | .hwResetAutoClear => []

/-- A write that leaves bit `k` of CONTROL as its operation read it. -/
def Write.KeepsBit (k : ℕ) : Write → Prop
  | .wide _ => True
  | .control _ => False
  | .modify f => ∀ c, (f c).getLsbD k = c.getLsbD k

theorem keepsBit_setBitWord {i : BitIndex} {k : ℕ} (hk : k ≠ 5) (hi : i.toNat ≠ k) :
    (Write.modify (setBitWord i)).KeepsBit k := fun c => by
  simp [getLsbD_setBitWord i c hk, hi.symm]

theorem keepsBit_clearBitWord {i : BitIndex} {k : ℕ} (hk : k ≠ 5) (hi : i.toNat ≠ k) :
    (Write.modify (clearBitWord i)).KeepsBit k := fun c => by
  simp [getLsbD_clearBitWord i c hk, hi.symm]

/-- No write of the whole of CONTROL: every bit that is not named is written back as read. -/
theorem writes_keepBit {i : Instr} {k : ℕ} (hk : k ≠ 5) (hblind : blindControlWrite i = false)
    (hnamed : ∀ b ∈ namedBits i, b.toNat ≠ k) : ∀ w ∈ writes i, w.KeepsBit k := by
  have hset := @keepsBit_setBitWord (k := k) (hk := hk)
  have hclear := @keepsBit_clearBitWord (k := k) (hk := hk)
  cases i
  case write8Control v | writeControl v => cases hblind
  case setBit b => simpa [writes] using hset b (hnamed b (by simp [namedBits]))
  case clearBit b => simpa [writes] using hclear b (hnamed b (by simp [namedBits]))
  case start continuous =>
    simp only [namedBits, List.forall_mem_cons] at hnamed
    obtain ⟨houtput, hmode, honce, hstart, -⟩ := hnamed
    have hthird : (Write.modify (if continuous then setBitWord .continuousOnce
        else clearBitWord .continuousOnce)).KeepsBit k := by
      cases continuous with
      | true => exact hset _ honce
      | false => exact hclear _ honce
    simpa [writes] using ⟨hset _ houtput, hset _ hmode, hthird, hset _ hstart⟩
  case stop =>
    simp only [namedBits, List.forall_mem_cons] at hnamed
    obtain ⟨houtput, hstart, -⟩ := hnamed
    simpa [writes] using ⟨hclear _ houtput, hclear _ hstart⟩
  case resetCounter =>
    have hreset := hnamed .resetCounter (by simp [namedBits])
    simpa [writes] using ⟨hset _ hreset, hclear _ hreset⟩
  case selectClockSource external =>
    have hselect := hnamed .clockSelect (by simp [namedBits])
    cases external with
    | true => simpa [writes] using hset _ hselect
    | false => simpa [writes] using hclear _ hselect
  case acknowledgeInterrupt => simp [writes, Write.KeepsBit]
  all_goals simp [writes, Write.KeepsBit]

end Sys2Proof.Machine
end

section
/-! PROOFS. What the sequencing operations leave alone and what they end in, under every interleaving with hardware
events (spec/43_control_sequencing.md R103 to R112, spec/70_reset_and_hazards.md R142, R143). -/

namespace Sys2Proof.Machine

open Safety

/-! ## Frames -/

/-- A bit of CONTROL that neither the hardware changes nor the operation names. -/
theorem exec_keeps_bit {i : Instr} {s t : State} {k : ℕ} (hk : (0x5B#8).getLsbD k = true)
    (hblind : blindControlWrite i = false) (hnamed : ∀ b ∈ namedBits i, b.toNat ≠ k)
    (hexclusive : s.cfg.exclusiveMutators = true) (h : exec i s = .next t) :
    t.control.getLsbD k = s.control.getLsbD k := by
  have hk5 := ne_five_of_software hk
  have hU : Undisturbed (fun r => r.control.getLsbD k = s.control.getLsbD k) (fun _ => True) :=
    ⟨fun r c hr hc => (hc.getLsbD_eq hk).trans hr, by simp, by simp, by simp⟩
  refine (exec_guarded hU (fun w hw => ?_) hexclusive rfl h).1
  have hkeeps := writes_keepBit hk5 hblind hnamed w hw
  cases w with
  | wide q => exact fun r v hr => ⟨by cases q <;> exact hr, trivial⟩
  | control v => cases hkeeps
  | modify f =>
    exact fun r c hr _ => ⟨(controlWrite_stored c (f r.control) hk5).trans ((hkeeps _).trans hr), trivial⟩

/-- An operation without a wide write leaves PERIOD, DUTY and CLOCK (R43). -/
theorem exec_keeps_wide {i : Instr} {s t : State} (hwide : ∀ q, Write.wide q ∉ writes i)
    (hexclusive : s.cfg.exclusiveMutators = true) (h : exec i s = .next t) :
    t.period = s.period ∧ t.duty = s.duty ∧ t.clock = s.clock := by
  have hU : Undisturbed (fun r => r.period = s.period ∧ r.duty = s.duty ∧ r.clock = s.clock)
      (fun _ => True) :=
    ⟨fun _ _ hr _ => hr, by simp, by simp, by simp⟩
  refine (exec_guarded hU (fun w hw => ?_) hexclusive ⟨rfl, rfl, rfl⟩ h).1
  cases w with
  | wide q => exact absurd hw (hwide q)
  | control v => exact fun r hr => ⟨hr, trivial⟩
  | modify f => exact fun r c hr _ => ⟨hr, trivial⟩

/-- Settles O44: bit 6 is no `bit_index`, so only a write of the whole of CONTROL names it. -/
theorem reservedBitChangesOnlyByABlindWrite : Obligations.ReservedBitChangesOnlyByABlindWrite := by
  intro i s t hexclusive hblind h
  exact exec_keeps_bit (k := 6) (by decide) hblind (fun b _ => by cases b <;> decide) hexclusive h

/-- Two values agree under masks when they agree in every bit of the masks. -/
theorem and_mask_eq_of_bits {c d m : U8} (h : ∀ k, m.getLsbD k = true → d.getLsbD k = c.getLsbD k) :
    d &&& m = c &&& m := by
  refine BitVec.eq_of_getLsbD_eq fun k _ => ?_
  rw [BitVec.getLsbD_and, BitVec.getLsbD_and]
  cases hm : m.getLsbD k with
  | true => rw [h k hm]
  | false => rw [Bool.and_false, Bool.and_false]

/-- An operation that writes no whole register but through `configure`, and names only bits of the mask and bits
the hardware may change too. -/
structure FramedBy (i : Instr) (mask : U8) : Prop where
  blind : blindControlWrite i = false
  new : ∀ base tol, i ≠ .new base tol
  wide : (∀ f r c, i ≠ .configure f r c) → ∀ q, Write.wide q ∉ writes i
  named : ∀ b ∈ namedBits i, (0x5B#8).getLsbD b.toNat = true → mask.getLsbD b.toNat = true

theorem FramedBy.control_eq {i : Instr} {mask : U8} (hi : FramedBy i mask) {s t : State}
    (hexclusive : s.cfg.exclusiveMutators = true) (h : exec i s = .next t) :
    t.control &&& 0x5B &&& ~~~mask = s.control &&& 0x5B &&& ~~~mask := by
  rw [BitVec.and_assoc, BitVec.and_assoc]
  refine and_mask_eq_of_bits fun k hk => ?_
  obtain ⟨hsoftware, hout⟩ : (0x5B#8).getLsbD k = true ∧ (~~~mask).getLsbD k = true := by
    rwa [BitVec.getLsbD_and, Bool.and_eq_true_iff] at hk
  refine exec_keeps_bit hsoftware hi.blind (fun b hb heq => ?_) hexclusive h
  subst heq
  rw [BitVec.getLsbD_not, hi.named b hb hsoftware, Bool.not_true, Bool.and_false] at hout
  cases hout

/-- The operations of R102 to R110 and R81 to R84, each with the bits its rule names. -/
theorem framedBy_cases {i : Instr} {mask : U8}
    (h : ((∃ c, i = .start c) ∧ mask = 0x1A) ∨ (i = .stop ∧ mask = 0x10) ∨
      (i = .resetCounter ∧ mask = 0x00) ∨ ((∃ e, i = .selectClockSource e) ∧ mask = 0x01) ∨
      (i = .acknowledgeInterrupt ∧ mask = 0x00) ∨ (i = .interruptOccurred ∧ mask = 0x00) ∨
      (∃ b, (i = .setBit b ∨ i = .clearBit b) ∧ mask = 1#8 <<< b.toNat) ∨
      ((∃ f r c, i = .configure f r c) ∧ mask = 0x00) ∨ ((∃ b, i = .testBit b) ∧ mask = 0x00)) :
    FramedBy i mask := by
  rcases h with ⟨⟨c, rfl⟩, rfl⟩ | ⟨rfl, rfl⟩ | ⟨rfl, rfl⟩ | ⟨⟨e, rfl⟩, rfl⟩ | ⟨rfl, rfl⟩ |
    ⟨rfl, rfl⟩ | ⟨b, rfl | rfl, rfl⟩ | ⟨⟨f, r, c, rfl⟩, rfl⟩ | ⟨⟨b, rfl⟩, rfl⟩
  case inr.inr.inr.inr.inr.inr.inl.inl | inr.inr.inr.inr.inr.inr.inl.inr =>
    exact ⟨rfl, by simp, by simp [writes], by simp [namedBits, bitIndex_toNat_lt]⟩
  all_goals exact ⟨rfl, by simp, by simp [writes], by simp [namedBits, BitIndex.toNat]⟩

/-- Settles O48: each operation names its own bits, and none writes the whole of CONTROL. -/
theorem sequencingLeavesEverythingElseAlone : Obligations.SequencingLeavesEverythingElseAlone := by
  intro i s t mask hexclusive h hcases
  have hi := framedBy_cases hcases
  have hleaves := exec_leaves h
  obtain ⟨hbase, htol⟩ := exec_fields h hi.new
  exact ⟨fun hconfigure => exec_keeps_wide (hi.wide hconfigure) hexclusive h, hbase, htol, hleaves.cfg,
    hleaves.inbox, hi.control_eq hexclusive h⟩

/-- Settles O46: `start`, `stop` and the events write no wide register and do not name bit 0. -/
theorem startStopSequencesKeepTheWaveformAndClockSource :
    Obligations.StartStopSequencesKeepTheWaveformAndClockSource := by
  intro n st op hexclusive hruns hops
  suffices hkeeps : (st n).cfg = (st 0).cfg ∧ (st n).period = (st 0).period ∧ (st n).duty = (st 0).duty ∧
      (st n).clock = (st 0).clock ∧
      flag .clockSelect (st n).control = flag .clockSelect (st 0).control from hkeeps.2
  induction n with
  | zero => exact ⟨rfl, rfl, rfl, rfl, rfl⟩
  | succ n ih =>
    obtain ⟨hcfg, hperiod, hduty, hclock, hselect⟩ :=
      ih (fun k hk => hruns k (by omega)) fun k hk => hops k (by omega)
    have hrun := hruns n (Nat.lt_succ_self n)
    have hnow : (st n).cfg.exclusiveMutators = true := by rwa [hcfg]
    obtain ⟨hblind, hwide, hnamed⟩ : blindControlWrite (op n) = false ∧
        (∀ q, Write.wide q ∉ writes (op n)) ∧ ∀ b ∈ namedBits (op n), b.toNat ≠ 0 := by
      rcases hops n (Nat.lt_succ_self n) with heq | heq | heq | ⟨c, heq⟩ <;> rw [heq] <;>
        exact ⟨rfl, by simp [writes], by simp [namedBits, BitIndex.toNat]⟩
    obtain ⟨hperiod', hduty', hclock'⟩ := exec_keeps_wide hwide hnow hrun
    have hbit := exec_keeps_bit (k := 0) (by decide) hblind hnamed hnow hrun
    exact ⟨(exec_leaves hrun).cfg.trans hcfg, hperiod'.trans hperiod, hduty'.trans hduty,
      hclock'.trans hclock, hbit.trans hselect⟩

/-! ## Interrupts -/

/-- An operation whose words write bit 5 as 0 acknowledges nothing (R81). -/
theorem exec_acknowledges_nothing {i : Instr} {s t : State}
    (hwords : ∀ w ∈ writes i, ∃ f, w = .modify f ∧ ∀ c, flag .interrupt (f c) = false)
    (hexclusive : s.cfg.exclusiveMutators = true) (h : exec i s = .next t) :
    ∀ e ∈ t.trace, acknowledges e = false := by
  have hU : Undisturbed (fun _ => True) (fun e => acknowledges e = false) :=
    ⟨fun _ _ _ _ => trivial, fun _ _ _ => rfl, fun _ _ _ => rfl, fun _ => rfl⟩
  refine (exec_guarded hU (fun w hw => ?_) hexclusive trivial h).2
  obtain ⟨f, rfl, hf⟩ := hwords w hw
  exact fun r c _ _ => ⟨trivial, hf r.control⟩

/-- Settles O43: none of these operations acknowledges, so a flag that was or comes up stays. -/
theorem sequencingNeverLosesAnInterrupt : Obligations.SequencingNeverLosesAnInterrupt := by
  intro i s t hexclusive h hcases hraised
  have hclear := flag_interrupt_clearBitWord
  have hset : ∀ b : BitIndex, b ≠ .interrupt → ∀ c, flag .interrupt (setBitWord b c) = false :=
    fun b hb c => by simp [flag_interrupt_setBitWord, hb]
  have hnone : ∀ e ∈ t.trace, acknowledges e = false := by
    refine exec_acknowledges_nothing ?_ hexclusive h
    rcases hcases with ⟨c, rfl⟩ | rfl | rfl | ⟨e, rfl⟩ | ⟨b, hb, rfl⟩ | ⟨b, rfl⟩
    · cases c <;> simp [writes, hset, hclear]
    · simp [writes, hclear]
    · simp [writes, hset, hclear]
    · cases e <;> simp [writes, hset, hclear]
    · simp [writes, hset b hb]
    · simp [writes, hclear]
  have hcontrol : t.control = (replay (registersOf s) t.trace).control :=
    congrArg Registers.control (exec_leaves h).registers
  rw [hcontrol]
  obtain hbefore | hduring := hraised
  · exact replay_interrupt_high hnone (r := registersOf s) hbefore
  · exact replay_interrupt_of_completion hnone hduring _

end Sys2Proof.Machine
end

section
/-! PROOFS. Where `start`, `stop`, `reset_counter` and `acknowledge_interrupt` end, bit by bit, whatever the hardware
does meanwhile (spec/43_control_sequencing.md R103 to R112, spec/70_reset_and_hazards.md R144 to R146). -/

namespace Sys2Proof.Machine

open Safety

/-! ## The last write of an operation -/

/-- Whatever the premises, and whatever else has happened, `op` ends with bit `k` of CONTROL at `v`. -/
def EndsWith (k : ℕ) (op : State → Bus Unit) (v : Bool) : Prop :=
  ∀ ⦃s t : State⦄, op s = .ok ((), t) → t.control.getLsbD k = v

/-- A bit other than 5 ends as the last word has it (R63). -/
theorem modifyControl_stored {f : U8 → U8} {s t : State} (h : modifyControl f s = .ok ((), t)) {k : ℕ}
    (hk : k ≠ 5) : t.control.getLsbD k = (f s.control).getLsbD k := by
  obtain ⟨bf, u, bf', -, rfl⟩ := modifyControl_cases h
  rw [log_control, controlSet_control]
  exact controlWrite_stored _ _ hk

theorem endsWith_setBit (i : BitIndex) (hi : i.toNat ≠ 5) : EndsWith i.toNat (setBit i) true := by
  intro s t h
  rw [modifyControl_stored h hi, getLsbD_setBitWord i _ hi]
  simp

theorem endsWith_clearBit (i : BitIndex) (hi : i.toNat ≠ 5) : EndsWith i.toNat (clearBit i) false := by
  intro s t h
  rw [modifyControl_stored h hi, getLsbD_clearBitWord i _ hi]
  simp

theorem EndsWith.andThenGap {op : State → Bus Unit} {k : Unit → State → Bus Unit} {n : ℕ} {v : Bool}
    (hk : EndsWith n (k ()) v) : EndsWith n (fun s => andThenGap (op s) k) v := by
  intro s t h
  obtain ⟨_, u, w, -, -, hrest⟩ := andThenGap_cases h
  exact hk hrest

theorem endsWith_startOp (c : Bool) : EndsWith 2 (startOp c) true :=
  .andThenGap <| .andThenGap <| .andThenGap <| endsWith_setBit .pwmStart (by decide)

theorem endsWith_stopOp : EndsWith 2 stopOp false :=
  .andThenGap <| endsWith_clearBit .pwmStart (by decide)

theorem endsWith_resetCounterOp : EndsWith 7 resetCounterOp false :=
  .andThenGap <| endsWith_clearBit .resetCounter (by decide)

theorem EndsWith.performOk {op : State → Bus Unit} {k : ℕ} {v : Bool} (hop : EndsWith k op v)
    {s t : State} (h : performOk (fun _ => .unit) op s = .next t) : t.control.getLsbD k = v := by
  obtain ⟨_, u, hu, rfl⟩ := performOk_cases h
  have hend : u.control.getLsbD k = v := hop hu
  exact hend

/-! ## One bit through an operation -/

/-- Under `EXCLUSIVE_MUTATORS`, `op` takes bit `k` of CONTROL through `g`. -/
def TakesBit (k : ℕ) (op : State → Bus Unit) (g : Bool → Bool) : Prop :=
  ∀ ⦃s t : State⦄, s.cfg.exclusiveMutators = true → op s = .ok ((), t) →
    t.cfg.exclusiveMutators = true ∧ t.control.getLsbD k = g (s.control.getLsbD k)

theorem takesBit_modifyControl {f : U8 → U8} {k : ℕ} {g : Bool → Bool} (hk : k ≠ 5)
    (hf : ∀ c, (f c).getLsbD k = g (c.getLsbD k)) : TakesBit k (modifyControl f) g := by
  intro s t hexclusive h
  obtain ⟨d, hd⟩ := (Program.modifyControl f).reaches h
  exact ⟨by rwa [hd.frame.cfg], (modifyControl_stored h hk).trans (hf _)⟩

theorem takesBit_setBit (i : BitIndex) {k : ℕ} (hk : k ≠ 5) :
    TakesBit k (setBit i) (· || decide (k = i.toNat)) :=
  takesBit_modifyControl hk fun c => getLsbD_setBitWord i c hk

theorem takesBit_clearBit (i : BitIndex) {k : ℕ} (hk : k ≠ 5) :
    TakesBit k (clearBit i) (· && !decide (k = i.toNat)) :=
  takesBit_modifyControl hk fun c => getLsbD_clearBitWord i c hk

/-- The hardware leaves such a bit alone in between (R115). -/
theorem TakesBit.andThenGap {op : State → Bus Unit} {k : Unit → State → Bus Unit} {n : ℕ}
    {g g' g'' : Bool → Bool} (hn : (0x5B#8).getLsbD n = true) (hop : TakesBit n op g)
    (hk : TakesBit n (k ()) g') (hg : ∀ b, g'' b = g' (g b)) :
    TakesBit n (fun s => andThenGap (op s) k) g'' := by
  intro s t hexclusive h
  obtain ⟨_, u, v, hfirst, hgap, hrest⟩ := andThenGap_cases h
  obtain ⟨hu, hbit⟩ := hop hexclusive hfirst
  have hcalm := gap_calm hu hgap
  obtain ⟨ht, hbit'⟩ := hk (by rwa [hcalm.cfg]) hrest
  exact ⟨ht, by rw [hbit', hcalm.control.getLsbD_eq hn, hbit, hg]⟩

theorem TakesBit.performOk {op : State → Bus Unit} {k : ℕ} {g : Bool → Bool} (hop : TakesBit k op g)
    {s t : State} (hexclusive : s.cfg.exclusiveMutators = true)
    (h : performOk (fun _ => .unit) op s = .next t) :
    t.control.getLsbD k = g (s.control.getLsbD k) := by
  obtain ⟨_, u, hu, rfl⟩ := performOk_cases h
  exact (hop (s := { s with trace := [] }) hexclusive hu).2

/-- What `start` does to bit `k`, one helper after another (R102). -/
def startBit (continuous : Bool) (k : ℕ) (b : Bool) : Bool :=
  let enabled := b || decide (k = 4) || decide (k = 1)
  (if continuous then enabled || decide (k = 3) else enabled && !decide (k = 3)) || decide (k = 2)

theorem takesBit_startOp (continuous : Bool) {k : ℕ} (hk : (0x5B#8).getLsbD k = true) :
    TakesBit k (startOp continuous) (startBit continuous k) := by
  have hset := fun i => takesBit_setBit i (ne_five_of_software hk)
  have hclear := fun i => takesBit_clearBit i (ne_five_of_software hk)
  cases continuous with
  | true =>
    exact .andThenGap hk (hset _) (.andThenGap hk (hset _)
      (.andThenGap hk (hset _) (hset _) fun _ => rfl) fun _ => rfl) fun _ => rfl
  | false =>
    exact .andThenGap hk (hset _) (.andThenGap hk (hset _)
      (.andThenGap hk (hclear _) (hset _) fun _ => rfl) fun _ => rfl) fun _ => rfl

theorem takesBit_stopOp {k : ℕ} (hk : (0x5B#8).getLsbD k = true) :
    TakesBit k stopOp (fun b => b && !decide (k = 4) && !decide (k = 2)) :=
  .andThenGap hk (takesBit_clearBit _ (ne_five_of_software hk))
    (takesBit_clearBit _ (ne_five_of_software hk)) fun _ => rfl

/-- `start` a second time does nothing more to a bit. -/
theorem startBit_idem (continuous : Bool) (k : ℕ) (b : Bool) :
    startBit continuous k (startBit continuous k b) = startBit continuous k b := by
  unfold startBit
  generalize decide (k = 4) = x, decide (k = 1) = y, decide (k = 3) = z, decide (k = 2) = w
  revert continuous b x y z w
  decide

/-- Settles O45: bits 2, 3, 4 and 1 through `start`, bits 2 and 4 through `stop`. -/
theorem startEndsRunningAndStopEndsStopped : Obligations.StartEndsRunningAndStopEndsStopped := by
  intro s t hexclusive
  refine ⟨fun c h => ?start, fun h => ?stop⟩
  case start =>
    have hbit := fun k hk => (takesBit_startOp c (k := k) hk).performOk hexclusive h
    have hstart : flag .pwmStart t.control = true := (endsWith_startOp c).performOk h
    have honce : flag .continuousOnce t.control = c :=
      (hbit 3 (by decide)).trans (by simp [startBit])
    refine ⟨?_, (hbit 4 (by decide)).trans (by simp [startBit]),
      (hbit 1 (by decide)).trans (by simp [startBit])⟩
    rw [channelState_of_started hstart, honce]
    rfl
  case stop =>
    have hstop : flag .pwmStart t.control = false := endsWith_stopOp.performOk h
    refine ⟨channelState_of_not_started hstop, ?_⟩
    exact ((takesBit_stopOp (k := 4) (by decide)).performOk hexclusive h).trans (by simp)

theorem foldl_hwEvent_calm (events : List HwEvent) :
    ∀ t : State, Calm t (events.foldl (fun x e => hwEvent e x) t) := by
  induction events with
  | nil => exact .refl
  | cons e events ih => exact fun t => (hwEvent_calm e t).trans (ih _)

/-- Settles O47: each bit is taken through `start` again, and bit 2 ends at 1 both times. -/
theorem startIsIdempotentUpToHardwareEvents : Obligations.StartIsIdempotentUpToHardwareEvents := by
  intro c s t u w events hexclusive hfirst hu hsecond
  have hcalm : Calm t u := hu ▸ foldl_hwEvent_calm events t
  have hnow : u.cfg.exclusiveMutators = true := by
    rwa [hcalm.cfg, (exec_leaves hfirst).cfg]
  refine and_mask_eq_of_bits fun k hk => ?_
  obtain rfl | hsoftware : k = 2 ∨ (0x5B#8).getLsbD k = true := by
    have hlt := BitVec.lt_of_getLsbD hk
    interval_cases k <;> simp_all
  · exact ((endsWith_startOp c).performOk hsecond).trans ((endsWith_startOp c).performOk hfirst).symm
  · have hbit := (takesBit_startOp c hsoftware).performOk hexclusive hfirst
    have hbit' := (takesBit_startOp c hsoftware).performOk hnow hsecond
    rw [hbit', hcalm.control.getLsbD_eq hsoftware, hbit, startBit_idem]

/-! ## Given interleavings -/

/-- CONTROL with an auto-clear between the two helpers of `reset_counter` (R106, R118). -/
theorem resetCounter_cleared_facts : ∀ c : U8,
    flag .resetCounter (controlWrite c (setBitWord .resetCounter c)) = true ∧
    wordsControl [clearBitWord .resetCounter]
      (eventEffect (controlWrite c (setBitWord .resetCounter c)) .resetAutoClear) = c &&& 0x7F := by
  decide +kernel

theorem exec_resetCounter_cleared {s : State} (h : s.cfg.mapped = true)
    (hself : s.cfg.resetSelfClear = true) (hg : s.gaps = [[], [.event .resetAutoClear]]) :
    ∃ t : State, exec .resetCounter s = .next t ∧ t.control = s.control &&& 0x7F := by
  obtain ⟨hset, hend⟩ := resetCounter_cleared_facts s.control
  have hrun : ∃ t, resetCounterOp { s with trace := [] } = .ok ((), t) ∧
      t.control = wordsControl [clearBitWord .resetCounter]
        (eventEffect (controlWrite s.control (setBitWord .resetCounter s.control)) .resetAutoClear) := by
    simp [resetCounterOp, setBit, clearBit, modifyControl, read8_mapped, write8_mapped, gap, occurAll, occur,
      hwEvent, eventEnabled, h, hg, hself, hset, wordsControl]
  obtain ⟨t, ht, hcontrol⟩ := hrun
  exact ⟨_, performOk_of_ok ht, hcontrol.trans hend⟩

/-- Settles O33: alone, by its words; with the auto-clear in between, by running it; in every case, by its last
write. -/
theorem resetCounterPulsesBitSevenUnderBothPolicies :
    Obligations.ResetCounterPulsesBitSevenUnderBothPolicies :=
  ⟨fun _ => exec_resetCounter_alone, fun _ => exec_resetCounter_cleared,
    fun _ _ => endsWith_resetCounterOp.performOk⟩

theorem acknowledges_of_between {e : Entry} (h : Between true e) : acknowledges e = false := by
  cases h with
  | read16 offset v => rfl
  | read8 offset v => rfl
  | write16 offset v hfalse => cases hfalse
  | write8 offset v hfalse => cases hfalse
  | event e => rfl

/-- A word with bit 5 at 1 clears INTERRUPT, whatever fell before its write (R63). -/
theorem modifyControl_acknowledged {f : U8 → U8} {s t : State} (h : modifyControl f s = .ok ((), t))
    (hword : flag .interrupt (f s.control) = true) : flag .interrupt t.control = false := by
  obtain ⟨bf, u, bf', -, rfl⟩ := modifyControl_cases h
  rw [log_control, controlSet_control, flag_interrupt_controlWrite, hword, Bool.not_true, Bool.and_false]

/-- An acknowledge that read the flag as 0 acknowledges nothing. -/
theorem exec_acknowledgeInterrupt_low {s t : State} (hexclusive : s.cfg.exclusiveMutators = true)
    (h : exec .acknowledgeInterrupt s = .next t) (hlow : flag .interrupt s.control = false) :
    ∀ e ∈ t.trace, acknowledges e = false := by
  obtain ⟨_, u, hu, rfl⟩ := performOk_cases h
  obtain ⟨bf, v, bf', hgap, rfl⟩ := modifyControl_cases hu
  obtain ⟨d, hd, hbetween⟩ := gap_growsBetween hgap
  have hbetween' : ∀ e ∈ d, Between true e := fun e he => hexclusive ▸ hbetween e he
  intro e he
  have hmem : e ∈ v.trace ∨ e = .write8 .own controlOffset s.control := by simpa using he
  rw [hd] at hmem
  have hparts : (e = .read8 .own controlOffset s.control ∨ e ∈ d) ∨
      e = .write8 .own controlOffset s.control := by simpa using hmem
  obtain (rfl | hin) | rfl := hparts
  · rfl
  · exact acknowledges_of_between (hbetween' e hin)
  · exact hlow

/-- Settles O36: alone, by its word; a flag read as 0 by the record, and one read as 1 by the write-back. -/
theorem acknowledgeClearsOnlyTheInterruptItRead :
    Obligations.AcknowledgeClearsOnlyTheInterruptItRead := by
  refine ⟨fun s => exec_acknowledgeInterrupt_alone, fun s t hexclusive h hlow hcompleted => ?low,
    fun s t h hhigh => ?high⟩
  case low =>
    have hcontrol : t.control = (replay (registersOf s) t.trace).control :=
      congrArg Registers.control (exec_leaves h).registers
    rw [hcontrol]
    exact replay_interrupt_of_completion (exec_acknowledgeInterrupt_low hexclusive h hlow) hcompleted _
  case high =>
    obtain ⟨_, u, hu, rfl⟩ := performOk_cases h
    have hcleared : flag .interrupt u.control = false := modifyControl_acknowledged hu hhigh
    exact hcleared

/-- CONTROL with a once-mode completion between the read and the write-back (R144). -/
theorem acknowledge_completed_facts : ∀ c : U8, channelState c = .running .once →
    channelState (controlWrite (eventEffect c .cycleComplete) c) = .running .once ∧
    flag .interrupt (controlWrite (eventEffect c .cycleComplete) c) = !flag .interrupt c := by
  decide +kernel

/-- Settles O54, by running the acknowledge with the completion inside. -/
theorem onceCompletionInsideAcknowledgeIsUndone :
    Obligations.OnceCompletionInsideAcknowledgeIsUndone := by
  intro s h hg honce
  have hstart : flag .pwmStart s.control = true := by
    by_contra hstop
    rw [channelState_of_not_started (by simpa using hstop)] at honce
    cases honce
  obtain ⟨hstate, hflag⟩ := acknowledge_completed_facts s.control honce
  have hrun : ∃ t, acknowledgeInterruptOp { s with trace := [] } = .ok ((), t) ∧
      t.control = controlWrite (eventEffect s.control .cycleComplete) s.control ∧
      .event .cycleComplete ∈ t.trace := by
    simp [acknowledgeInterruptOp, modifyControl, read8_mapped, write8_mapped, gap, occurAll, occur, hwEvent,
      eventEnabled, h, hg, hstart]
  obtain ⟨t, ht, hcontrol, hmem⟩ := hrun
  exact ⟨_, performOk_of_ok ht, by rw [← hstate, ← hcontrol], by rw [← hflag, ← hcontrol], hmem⟩

theorem foreignAccess_readControl_mapped {s : State} (h : s.cfg.mapped = true) :
    foreignAccess .readControl s = .ok ((), log (.read8 .other controlOffset s.control) s) := by
  simp [foreignAccess, memRead_control_mapped h]

/-- Another context's write of CONTROL takes place without the lock only (R46). -/
theorem foreignAccess_writeControl_mapped {s : State} (h : s.cfg.mapped = true) (v : U8) :
    foreignAccess (.writeControl v) s = .ok ((), if s.cfg.exclusiveMutators then s
      else log (.write8 .other controlOffset v) (controlSet v s)) := by
  rw [foreignAccess, memWrite_control_mapped h]
  split <;> rfl

/-- Settles O55, by running the acknowledge with the other context's two transactions inside, with the lock and
without it. -/
theorem updateInsideAcknowledgeIsLostOnlyWithoutTheLock :
    Obligations.UpdateInsideAcknowledgeIsLostOnlyWithoutTheLock := by
  intro s h hc hg
  have hrun : ∃ t, acknowledgeInterruptOp { s with trace := [] } = .ok ((), t) ∧ t.control = 0x1E ∧
      (.write8 .other controlOffset 0x0E ∈ t.trace ↔ s.cfg.exclusiveMutators = false) := by
    cases hlock : s.cfg.exclusiveMutators <;>
      simp [acknowledgeInterruptOp, modifyControl, read8_mapped, write8_mapped, gap, occurAll, occur,
        foreignAccess_readControl_mapped, foreignAccess_writeControl_mapped, h, hg, hc, hlock, controlWrite]
  obtain ⟨t, ht, hcontrol, hmem⟩ := hrun
  exact ⟨_, performOk_of_ok ht, hcontrol, hmem⟩

end Sys2Proof.Machine
end

section
/-! PROOFS. What `configure` leaves (spec/42_configure_pipeline.md R96 to R98), and the controller's invariant under the
operations that write no raw value (spec/10_state.md R26). -/

namespace Sys2Proof.Machine

open Safety

/-! ## A failed `configure` -/

/-- A check that ends in an `Err` has read CONTROL and done nothing else. -/
theorem whenStopped_err_state {body : State → Bus Result} (hbody : ReturnsOk body) {s t : State}
    {k : ConfigError} (h : whenStopped body s = .ok (.err k, t)) :
    k = .mustBeStoppedFirst ∧
      ∃ bf, t = log (.read8 .own controlOffset s.control) { s with busFaults := bf } := by
  obtain ⟨hstart, hk⟩ := whenStopped_err_cases hbody h
  obtain ⟨running, u, htest, hrest⟩ := andThen_cases h
  obtain ⟨rfl, hu⟩ := testBit_cases htest
  rw [if_pos hstart] at hrest
  cases hrest
  exact ⟨hk, hu⟩

/-- Settles O26: the error is the computation's, before any transaction, or the check's, after one read. -/
theorem failedConfigureWritesNothing : Obligations.FailedConfigureWritesNothing := by
  intro s t f r c k h hresult
  cases htriple : computeTriple s.tol (f64Value f) (f64Value r) (f64Value c) with
  | error k' =>
    rw [exec_configure_of_error htriple] at h
    cases h
    cases hresult
    have hk : k ≠ .mustBeStoppedFirst := by
      obtain ⟨-, rfl⟩ | ⟨-, rfl⟩ := computeTriple_error_cases htriple <;> decide
    exact ⟨rfl, rfl, rfl, rfl, rfl, (if_neg hk).symm⟩
  | ok x =>
    rw [exec_configure_of_ok htriple] at h
    obtain ⟨_, u, hu, rfl⟩ := perform_cases h
    cases hresult
    obtain ⟨rfl, bf, rfl⟩ := whenStopped_err_state (returnsOk_configureBody x) hu
    exact ⟨rfl, rfl, rfl, rfl, rfl, rfl⟩

/-! ## A successful `configure` -/

/-- One write, and then nothing of another agent. -/
theorem writeGap_alone {β : Type} {s : State} (h : s.cfg.mapped = true) (hg : s.gaps = []) {r : WideReg}
    {v : U16} {k : Unit → State → Bus β} :
    andThenGap (write16 (wideOffset r) v s) k =
      k () (log (.write16 .own (wideOffset r) v) (wideSet r v s)) := by
  rw [andThenGap, write16_mapped h, andThen_ok, gap_of_nil (by simpa using hg), andThen_ok]

theorem configureBody_alone {s : State} (h : s.cfg.mapped = true) (hg : s.gaps = []) (x : Triple) :
    configureBody x s = .ok (.ok .unit, { s with
      period := BitVec.ofNat 16 x.period, duty := BitVec.ofNat 16 x.duty,
      clock := BitVec.ofNat 16 x.prescaler,
      trace := s.trace ++ [.write16 .own 0x00 (BitVec.ofNat 16 x.period),
        .write16 .own 0x04 (BitVec.ofNat 16 x.duty), .write16 .own 0x0C (BitVec.ofNat 16 x.prescaler)] }) := by
  simp only [configureBody, applyTriple, writePeriod, writeDuty, writeClock]
  rw [gap_of_nil hg, andThen_ok, writeGap_alone (r := .period) h hg,
    writeGap_alone (r := .duty) (by simpa using h) (by simpa using hg),
    write16_mapped (r := .clock) (by simpa using h)]
  simp [log, wideSet, wideOffset, returnValue]

/-- Settles O24: the computation answers, the check passes, and the three writes follow. -/
theorem configureAppliesTheTripleOnAStoppedChannel :
    Obligations.ConfigureAppliesTheTripleOnAStoppedChannel := by
  intro s f r c qf qr qc p P h hg hstop hf hr hc h0 h1 hqf hqc hsearch
  have htriple : computeTriple s.tol (f64Value f) (f64Value r) (f64Value c) = .ok ⟨p, P, dutyFor qr P⟩ :=
    computeTriple_eq_ok.mpr ⟨qr, qf, qc, dutyRatioValue_eq_some.mpr ⟨hr, h0, h1⟩,
      positiveValue_eq_some.mpr ⟨hf, hqf⟩, positiveValue_eq_some.mpr ⟨hc, hqc⟩, hsearch, rfl⟩
  rw [exec_configure_of_ok htriple]
  have hcheck := whenStopped_of_stopped (s := { s with trace := [] }) h hstop
    (configureBody ⟨p, P, dutyFor qr P⟩)
  exact perform_of_ok (hcheck.trans (configureBody_alone (s := log _ { s with trace := [] }) h hg _))

/-- The three writes with hardware events in between. -/
theorem applyTriple_cases {x : Triple} {s t : State} {r : Result}
    (hexclusive : s.cfg.exclusiveMutators = true) (h : applyTriple x s = .ok (r, t)) :
    t.period = BitVec.ofNat 16 x.period ∧ t.duty = BitVec.ofNat 16 x.duty ∧
      t.clock = BitVec.ofNat 16 x.prescaler := by
  obtain ⟨_, s₁, s₂, hperiod, hgap₁, hrest⟩ := andThenGap_cases h
  obtain ⟨_, s₃, s₄, hduty, hgap₂, hrest⟩ := andThenGap_cases hrest
  obtain ⟨_, s₅, hclock, hend⟩ := andThen_cases hrest
  cases hend
  obtain ⟨bf₁, rfl⟩ := write16_cases (r := .period) hperiod
  have hcalm₁ := gap_calm (by rw [log_cfg, wideSet_cfg]; exact hexclusive) hgap₁
  obtain ⟨bf₂, rfl⟩ := write16_cases (r := .duty) hduty
  have hcalm₂ := gap_calm (by rw [log_cfg, wideSet_cfg]; exact hcalm₁.cfg ▸ hexclusive) hgap₂
  obtain ⟨bf₃, rfl⟩ := write16_cases (r := .clock) hclock
  exact ⟨hcalm₂.period.trans hcalm₁.period, hcalm₂.duty, rfl⟩

/-- A `configure` answers an `Err`, or has computed a triple and left it in the registers. -/
theorem exec_configure_cases {s t : State} {f r c : F64}
    (hexclusive : s.cfg.exclusiveMutators = true) (h : exec (.configure f r c) s = .next t) :
    (∃ k, t.result = .err k) ∨
    ∃ x, computeTriple s.tol (f64Value f) (f64Value r) (f64Value c) = .ok x ∧
      t.period = BitVec.ofNat 16 x.period ∧ t.duty = BitVec.ofNat 16 x.duty ∧
      t.clock = BitVec.ofNat 16 x.prescaler := by
  cases htriple : computeTriple s.tol (f64Value f) (f64Value r) (f64Value c) with
  | error k =>
    rw [exec_configure_of_error htriple] at h
    cases h
    exact .inl ⟨k, rfl⟩
  | ok x =>
    rw [exec_configure_of_ok htriple] at h
    obtain ⟨_, u, hu, rfl⟩ := perform_cases h
    obtain ⟨running, w, htest, hrest⟩ := andThen_cases hu
    obtain ⟨-, bf, rfl⟩ := testBit_cases htest
    split at hrest
    · cases hrest
      exact .inl ⟨_, rfl⟩
    · obtain ⟨_, w', hgap, happly⟩ := andThen_cases hrest
      have hcalm := gap_calm (by exact hexclusive) hgap
      have hregisters := applyTriple_cases (by rw [hcalm.cfg]; exact hexclusive) happly
      exact .inr ⟨x, rfl, hregisters⟩

/-- A computed triple fits the registers, and is the search's and the duty's. -/
theorem computeTriple_fits {tol : ℚ} {f r c : Num64} {x : Triple}
    (h : computeTriple tol f r c = .ok x) :
    ∃ qf qr qc : ℚ, f = .finite qf ∧ r = .finite qr ∧ c = .finite qc ∧ 0 < qf ∧
      search (divisor qc qf) tol = some (x.prescaler, x.period) ∧
      (1 ≤ x.prescaler ∧ x.prescaler ≤ 65535) ∧ (1 ≤ x.period ∧ x.period ≤ 65535) ∧
      x.duty = roundHalfUp (qr * x.period) ∧ x.duty ≤ x.period ∧
      withinTolerance (divisor qc qf) tol x.prescaler x.period = true := by
  obtain ⟨qr, qf, qc, hr, hf, hc, hsearch, hduty⟩ := computeTriple_eq_ok.mp h
  obtain ⟨hr, h0, h1⟩ := dutyRatioValue_eq_some.mp hr
  obtain ⟨hf, hf0⟩ := positiveValue_eq_some.mp hf
  obtain ⟨hc, -⟩ := positiveValue_eq_some.mp hc
  obtain ⟨hrange, haccept, hperiod, -⟩ := search_eq_some_iff.mp hsearch
  obtain ⟨hfits, hwithin⟩ := Bool.and_eq_true_iff.mp haccept
  obtain ⟨hround, hle⟩ := dutyLiesWithinThePeriodAndTheClampIsIdle qr x.period h0 h1
  rw [← hperiod] at hfits hwithin
  exact ⟨qf, qr, qc, hf, hr, hc, hf0, hsearch, hrange, fits_iff.mp hfits, hduty.trans hround,
    hduty.trans_le hle, hwithin⟩

theorem toNat_ofNat_of_le {n : ℕ} (h : n ≤ 65535) : (BitVec.ofNat 16 n).toNat = n := by
  rw [BitVec.toNat_ofNat, Nat.mod_eq_of_lt (by omega)]

/-- Settles O25: the triple computed fits the registers, and its error is within tolerance. -/
theorem successfulConfigureLeavesAValidTripleWithinTolerance :
    Obligations.SuccessfulConfigureLeavesAValidTripleWithinTolerance := by
  intro s t f r c hexclusive h hresult
  obtain ⟨k, hk⟩ | ⟨x, htriple, hperiod, hduty, hclock⟩ := exec_configure_cases hexclusive h
  · cases hresult.symm.trans hk
  obtain ⟨qf, qr, qc, hf, hr, hc, hqf, hsearch, ⟨hp1, hp⟩, ⟨hP1, hP⟩, hround, hle, hwithin⟩ :=
    computeTriple_fits htriple
  rw [hperiod, hduty, hclock, toNat_ofNat_of_le hP, toNat_ofNat_of_le hp,
    toNat_ofNat_of_le (hle.trans hP)]
  refine ⟨qf, qr, qc, hf, hr, hc, hp1, hP1, hle, hsearch, hround, ?_⟩
  rw [withinTolerance_iff_error_le hp1 hP1, ← frequency_error_eq hqf hp1 hP1] at hwithin
  exact (div_le_iff₀ hqf).mp hwithin

/-! ## The controller's invariant -/

theorem registersValid_iff {s : State} : registersValid s = true ↔
    1 ≤ s.clock.toNat ∧ 1 ≤ s.period.toNat ∧ s.duty.toNat ≤ s.period.toNat := by
  have hclock := s.clock.isLt
  have hperiod := s.period.isLt
  simp only [registersValid, fieldsValid, decide_eq_true_eq]
  omega

/-- A valid triple stays valid: only `configure` writes one, and then a valid one (R97, R98). -/
theorem exec_keeps_valid {i : Instr} {s t : State} (hexclusive : s.cfg.exclusiveMutators = true)
    (hraw : rawWrite i = false) (hvalid : registersValid s = true) (h : exec i s = .next t) :
    registersValid t = true := by
  by_cases hconfigure : ∃ f r c, i = .configure f r c
  · obtain ⟨f, r, c, rfl⟩ := hconfigure
    obtain ⟨k, hresult⟩ | ⟨x, htriple, hperiod, hduty, hclock⟩ := exec_configure_cases hexclusive h
    · obtain ⟨hperiod, hduty, -, hclock, -⟩ := failedConfigureWritesNothing s t f r c k h hresult
      rwa [registersValid, hperiod, hduty, hclock]
    · obtain ⟨-, -, -, -, -, -, -, -, ⟨hp1, hp⟩, ⟨hP1, hP⟩, -, hle, -⟩ := computeTriple_fits htriple
      rw [registersValid_iff, hperiod, hduty, hclock, toNat_ofNat_of_le hP, toNat_ofNat_of_le hp,
        toNat_ofNat_of_le (hle.trans hP)]
      exact ⟨hp1, hP1, hle⟩
  · have hwide : ∀ q, Write.wide q ∉ writes i := by
      intro q
      cases i
      case configure f r c => exact absurd ⟨f, r, c, rfl⟩ hconfigure
      case write16Period | write16Duty | write16Clock | writePeriod | writeDuty | writeClock => cases hraw
      all_goals simp [writes]
    obtain ⟨hperiod, hduty, hclock⟩ := exec_keeps_wide hwide hexclusive h
    rwa [registersValid, hperiod, hduty, hclock]

/-- Bit 7 stays 0 where no operation names it, and `reset_counter` ends with it at 0 (R106, R118, R146). -/
theorem exec_keeps_resetCounter_low {i : Instr} {s t : State} (hexclusive : s.cfg.exclusiveMutators = true)
    (hraw : rawWrite i = false) (hlow : flag .resetCounter s.control = false) (h : exec i s = .next t) :
    flag .resetCounter t.control = false := by
  by_cases hreset : i = .resetCounter
  · subst hreset
    exact endsWith_resetCounterOp.performOk h
  · have hU : Undisturbed (fun r => r.control.getLsbD 7 = false) (fun _ => True) :=
      ⟨fun r c hr hc => Bool.eq_false_iff.mpr fun hset =>
        Bool.eq_false_iff.mp hr (hc.reset_not_set hset), by simp, by simp, by simp⟩
    have hblind : blindControlWrite i = false := by
      cases i
      case write8Control | writeControl => cases hraw
      all_goals rfl
    have hnamed : ∀ b ∈ namedBits i, b.toNat ≠ 7 := by
      cases i
      case setBit | clearBit => cases hraw
      case resetCounter => exact absurd rfl hreset
      all_goals simp [namedBits, BitIndex.toNat]
    refine (exec_guarded hU (fun w hw => ?_) hexclusive hlow h).1
    have hkeeps := writes_keepBit (by decide) hblind hnamed w hw
    cases w with
    | wide q => exact fun r v hr => ⟨by cases q <;> exact hr, trivial⟩
    | control v => cases hkeeps
    | modify f =>
      exact fun r c hr _ =>
        ⟨(controlWrite_stored c (f r.control) (by decide)).trans ((hkeeps _).trans hr), trivial⟩

theorem controllerInvariant_iff {s : State} : controllerInvariant s = true ↔
    registersValid s = true ∧ flag .resetCounter s.control = false := by
  simp [controllerInvariant]

/-- Settles O52: the triple and bit 7, each by its own lemma. -/
theorem controllerOperationsKeepTheControllerInvariant :
    Obligations.ControllerOperationsKeepTheControllerInvariant := by
  intro i s t hexclusive hraw hinv h
  obtain ⟨hvalid, hlow⟩ := controllerInvariant_iff.mp hinv
  exact controllerInvariant_iff.mpr ⟨exec_keeps_valid hexclusive hraw hvalid h,
    exec_keeps_resetCounter_low hexclusive hraw hlow h⟩

end Sys2Proof.Machine
end

section
/-! PROOFS. The expansion table: under `MAPPED` every operation answers, with its row of the table and one choice for
each place between two of its transactions (spec/30_encoding.md R61, spec/43_control_sequencing.md R114). -/

namespace Sys2Proof.Machine

open Safety

/-! ## Transactions in a row -/

/-- From `s` to `t` the operation has issued the transactions `l`, with one choice used for each place between
two of them. -/
structure Issued (s : State) (l : List BusShape) (t : State) : Prop where
  mapped : t.cfg.mapped = true
  shapes : ownShapes t.trace = ownShapes s.trace ++ l
  gaps : t.gaps = s.gaps.drop (l.length - 1)

/-- Under `MAPPED` `op` answers, having issued what `l` gives for its answer. -/
def Issues {α : Type} (op : State → Bus α) (l : α → List BusShape) : Prop :=
  ∀ ⦃s : State⦄, s.cfg.mapped = true → ∃ a t, op s = .ok (a, t) ∧ Issued s (l a) t

theorem ownShapes_append (d d' : List Entry) : ownShapes (d ++ d') = ownShapes d ++ ownShapes d' :=
  List.filterMap_append

/-- Nothing that falls between two transactions is one of the operation's own. -/
theorem ownShapes_eq_of_growsBetween {s t : State} (h : GrowsBetween s t) :
    ownShapes t.trace = ownShapes s.trace := by
  obtain ⟨d, hd, hbetween⟩ := h
  have hnone : ownShapes d = [] := List.filterMap_eq_nil_iff.mpr fun e he => by
    cases hbetween e he <;> rfl
  rw [hd, ownShapes_append, hnone, List.append_nil]

/-- A place for other agents uses one choice and issues nothing. -/
theorem gap_issues_nothing {s : State} (h : s.cfg.mapped = true) :
    ∃ t, gap s = .ok ((), t) ∧ t.cfg.mapped = true ∧ ownShapes t.trace = ownShapes s.trace ∧
      t.gaps = s.gaps.tail := by
  obtain ⟨t, hgap, hframe, -, hgaps⟩ := gap_mapped h
  exact ⟨t, hgap, by rwa [hframe.cfg], ownShapes_eq_of_growsBetween (gap_growsBetween hgap), hgaps⟩

/-- Two runs of transactions, with one place between them. -/
theorem Issued.trans {s t u v : State} {l l' : List BusShape} (hl : l ≠ []) (hl' : l' ≠ [])
    (h : Issued s l t) (hshapes : ownShapes u.trace = ownShapes t.trace) (hgaps : u.gaps = t.gaps.tail)
    (k : Issued u l' v) : Issued s (l ++ l') v where
  mapped := k.mapped
  shapes := by rw [k.shapes, hshapes, h.shapes, List.append_assoc]
  gaps := by
    have hpos := List.length_pos_iff.mpr hl
    have hpos' := List.length_pos_iff.mpr hl'
    rw [k.gaps, hgaps, h.gaps, ← List.drop_one, List.drop_drop, List.drop_drop, List.length_append]
    congr 1
    omega

theorem issued_log {s t : State} {e : Entry} {x : BusShape} (hmapped : t.cfg.mapped = true)
    (htrace : t.trace = s.trace) (hgaps : t.gaps = s.gaps) (he : entryShape e = some x) :
    Issued s [x] (log e t) where
  mapped := hmapped
  shapes := by rw [log_trace, htrace, ownShapes_append]; simp [ownShapes, he]
  gaps := hgaps

namespace Issues

theorem read16 (r : WideReg) : Issues (read16 (wideOffset r)) fun _ => [r16 (wideOffset r)] := by
  intro s h
  exact ⟨_, _, read16_mapped h r, issued_log h rfl rfl rfl⟩

theorem read8 : Issues (read8 controlOffset) fun _ => [r8] := by
  intro s h
  exact ⟨_, _, read8_mapped h, issued_log h rfl rfl rfl⟩

theorem write16 (r : WideReg) (v : U16) :
    Issues (write16 (wideOffset r) v) fun _ => [w16 (wideOffset r)] := by
  intro s h
  exact ⟨_, _, write16_mapped h r v, issued_log (by simpa using h) (by simp) (by simp) rfl⟩

theorem write8 (v : U8) : Issues (write8 controlOffset v) fun _ => [w8] := by
  intro s h
  exact ⟨_, _, write8_mapped h v, issued_log (by simpa using h) (by simp) (by simp) rfl⟩

/-- An answer that is only wrapped issues nothing. -/
theorem answering {α β : Type} {op : State → Bus α} {l : List BusShape} (h : Issues op fun _ => l)
    (wrap : α → β) : Issues (fun s => andThen (op s) fun a s => .ok (wrap a, s)) fun _ => l := by
  intro s hs
  obtain ⟨a, t, hop, hissued⟩ := h hs
  exact ⟨wrap a, t, by simp only [hop, andThen_ok], hissued⟩

theorem andThenGap {α β : Type} {op : State → Bus α} {k : α → State → Bus β} {l : List BusShape}
    {l' : β → List BusShape} (hl : l ≠ []) (hl' : ∀ b, l' b ≠ []) (h : Issues op fun _ => l)
    (hk : ∀ a, Issues (k a) l') : Issues (fun s => Machine.andThenGap (op s) k) fun b => l ++ l' b := by
  intro s hs
  obtain ⟨a, t, hop, hfirst⟩ := h hs
  obtain ⟨u, hgap, humapped, hshapes, hgaps⟩ := gap_issues_nothing hfirst.mapped
  obtain ⟨b, v, hrest, hlast⟩ := hk a humapped
  exact ⟨b, v, by simp only [hop, andThenGap_ok, hgap, andThen_ok, hrest],
    hfirst.trans hl (hl' b) hshapes hgaps hlast⟩

theorem modifyControl (f : U8 → U8) : Issues (modifyControl f) fun _ => [r8, w8] :=
  andThenGap (by simp) (by simp) read8 fun c => write8 (f c)

theorem testBit (i : BitIndex) : Issues (testBit i) fun _ => [r8] := answering read8 (flag i)

/-- The check and its body: one read where the channel runs, and the body's transactions after it where not. -/
theorem whenStopped {k : State → Bus Result} {l : List BusShape} {l' : Result → List BusShape} (hl : l ≠ [])
    (hk : Issues k fun _ => l) (hok : ReturnsOk k) (herr : l' (.err .mustBeStoppedFirst) = [r8])
    (hbody : ∀ v, l' (.ok v) = r8 :: l) :
    Issues (whenStopped fun s => andThen (gap s) fun _ => k) l' := by
  intro s hs
  obtain ⟨running, t, htest, hfirst⟩ := testBit .pwmStart hs
  cases running with
  | true =>
    exact ⟨.err .mustBeStoppedFirst, t, by rw [Machine.whenStopped, htest]; rfl, by rwa [herr]⟩
  | false =>
    obtain ⟨u, hgap, humapped, hshapes, hgaps⟩ := gap_issues_nothing hfirst.mapped
    obtain ⟨r, v, hrest, hlast⟩ := hk humapped
    obtain ⟨x, rfl⟩ := hok hrest
    refine ⟨.ok x, v, ?_, ?_⟩
    · rw [Machine.whenStopped, htest, andThen_ok]
      simp [hgap, hrest]
    · rw [hbody]
      exact hfirst.trans (by simp) hl hshapes hgaps hlast

theorem startOp (continuous : Bool) :
    Issues (startOp continuous) fun _ => [r8, w8, r8, w8, r8, w8, r8, w8] := by
  have hmode : Issues (fun s => match runModeOfBool continuous with
      | .continuous => setBit .continuousOnce s
      | .once => clearBit .continuousOnce s) fun _ => [r8, w8] := by
    cases continuous with
    | true => exact modifyControl _
    | false => exact modifyControl _
  exact andThenGap (by simp) (by simp) (modifyControl _) fun _ =>
    andThenGap (by simp) (by simp) (modifyControl _) fun _ =>
    andThenGap (by simp) (by simp) hmode fun _ => modifyControl _

theorem twoHelpers (f g : U8 → U8) :
    Issues (fun s => Machine.andThenGap (Machine.modifyControl f s) fun _ => Machine.modifyControl g)
      fun _ => [r8, w8, r8, w8] :=
  andThenGap (by simp) (by simp) (modifyControl f) fun _ => modifyControl g

theorem applyTriple (x : Triple) : Issues (applyTriple x) fun _ => [w16 0x00, w16 0x04, w16 0x0C] :=
  andThenGap (by simp) (by simp) (write16 .period _) fun _ =>
    andThenGap (by simp) (by simp) (write16 .duty _) fun _ => answering (write16 .clock _) fun _ => _

theorem selectClockSource (external : Bool) :
    Issues (Machine.whenStopped (clockSourceBody external)) (expansion (.selectClockSource external)) := by
  have hsource : Issues (fun s => match clockSourceOfBool external with
      | .external => setBit .clockSelect s
      | .internal => clearBit .clockSelect s) fun _ => [r8, w8] := by
    cases external with
    | true => exact modifyControl _
    | false => exact modifyControl _
  exact whenStopped (by simp) (answering hsource fun _ => Result.ok .unit)
    (returnsOk_andThen _ fun _ => returnsOk_returnValue .unit) rfl fun _ => rfl

theorem configureBody (f r c : F64) (x : Triple) :
    Issues (Machine.whenStopped (configureBody x)) (expansion (.configure f r c)) :=
  whenStopped (by simp) (applyTriple x) (returnsOk_applyTriple x) rfl fun _ => rfl

end Issues

/-! ## From transactions to operations -/

/-- The operation answers, with its row of the expansion table and its use of choices. -/
def Expands (i : Instr) (s : State) : Prop :=
  ∃ t : State, exec i s = .next t ∧ ownShapes t.trace = expansion i t.result ∧
    t.gaps = s.gaps.drop ((ownShapes t.trace).length - 1)

theorem Issues.expands {op : State → Bus Result} {i : Instr} (h : Issues op (expansion i)) {s : State}
    (hs : s.cfg.mapped = true) (heq : exec i s = perform op s) : Expands i s := by
  obtain ⟨r, t, hop, hissued⟩ := h (s := { s with trace := [] }) hs
  have hshapes : ownShapes t.trace = expansion i r := hissued.shapes
  refine ⟨_, heq.trans (perform_of_ok hop), hshapes, ?_⟩
  rw [hshapes]
  exact hissued.gaps

/-- An operation that issues nothing. -/
theorem expands_of_silent {i : Instr} {s t : State} (h : exec i s = .next t)
    (hshapes : ownShapes t.trace = []) (hrow : expansion i t.result = []) (hgaps : t.gaps = s.gaps) :
    Expands i s :=
  ⟨t, h, hshapes.trans hrow.symm, by rw [hshapes]; exact hgaps⟩

theorem expands_event (e : HwEvent) (s : State) : Expands (eventInstr e) s := by
  refine expands_of_silent (exec_eventInstr e s) ?_ (by cases e <;> rfl) ?_
  · exact List.filterMap_eq_nil_iff.mpr fun x hx => hwEvent_trace hx ▸ rfl
  · obtain ⟨-, heq⟩ | ⟨-, heq⟩ := hwEvent_cases e { s with trace := [] } <;> simp [heq]

theorem expands_configure (f r c : F64) {s : State} (hs : s.cfg.mapped = true) :
    Expands (.configure f r c) s := by
  cases htriple : computeTriple s.tol (f64Value f) (f64Value r) (f64Value c) with
  | error k =>
    refine expands_of_silent (exec_configure_of_error htriple) rfl ?_ rfl
    obtain ⟨-, rfl⟩ | ⟨-, rfl⟩ := computeTriple_error_cases htriple <;> rfl
  | ok x => exact (Issues.configureBody f r c x).expands hs (exec_configure_of_ok htriple)

theorem expands_new {base : Address} {tol : ℚ} (h : (Instr.new base tol).wellFormed = true) (s : State) :
    Expands (.new base tol) s :=
  expands_of_silent (if_pos h) rfl rfl rfl

/-- Every operation by its row (R61). -/
theorem expands (i : Instr) {s : State} (hwf : i.wellFormed = true) (hs : s.cfg.mapped = true) :
    Expands i s := by
  cases i
  case read16Period | readPeriod => exact ((Issues.read16 .period).answering _).expands hs rfl
  case read16Duty | readDuty => exact ((Issues.read16 .duty).answering _).expands hs rfl
  case read16Clock | readClock => exact ((Issues.read16 .clock).answering _).expands hs rfl
  case read8Control | readControl => exact (Issues.read8.answering _).expands hs rfl
  case write16Period v | writePeriod v => exact ((Issues.write16 .period v).answering _).expands hs rfl
  case write16Duty v | writeDuty v => exact ((Issues.write16 .duty v).answering _).expands hs rfl
  case write16Clock v | writeClock v => exact ((Issues.write16 .clock v).answering _).expands hs rfl
  case write8Control v | writeControl v => exact ((Issues.write8 v).answering _).expands hs rfl
  case setBit b => exact ((Issues.modifyControl (setBitWord b)).answering _).expands hs rfl
  case clearBit b => exact ((Issues.modifyControl (clearBitWord b)).answering _).expands hs rfl
  case testBit b => exact ((Issues.testBit b).answering _).expands hs rfl
  case configure f r c => exact expands_configure f r c hs
  case start continuous => exact ((Issues.startOp continuous).answering _).expands hs rfl
  case stop => exact ((Issues.twoHelpers _ _).answering _).expands hs rfl
  case resetCounter => exact ((Issues.twoHelpers _ _).answering _).expands hs rfl
  case selectClockSource external =>
    exact (Issues.selectClockSource external).expands hs (exec_selectClockSource external s)
  case interruptOccurred => exact ((Issues.testBit .interrupt).answering _).expands hs rfl
  case acknowledgeInterrupt => exact ((Issues.modifyControl _).answering _).expands hs rfl
  case new base tol => exact expands_new hwf s
  case hwCycleComplete => exact expands_event .cycleComplete s
  case hwResetAutoClear => exact expands_event .resetAutoClear s

theorem length_expansion_le (i : Instr) (r : Result) : (expansion i r).length ≤ 8 := by
  cases i
  case configure f d c =>
    cases r with
    | none => simp [expansion]
    | ok v => simp [expansion]
    | err k => cases k <;> simp [expansion]
  case selectClockSource external => cases r <;> simp [expansion]
  all_goals simp [expansion]

/-- Settles O41: the row of each operation, and what no operation touches. -/
theorem everyOperationCompletesWithItsExpansion : Obligations.EveryOperationCompletesWithItsExpansion := by
  intro i s hwf hmapped
  obtain ⟨t, h, hshapes, hgaps⟩ := expands i hwf hmapped
  have hleaves := exec_leaves h
  exact ⟨t, h, hshapes, hshapes ▸ length_expansion_le i t.result, hgaps, hleaves.cfg, hleaves.inbox,
    hleaves.busFaults hmapped⟩

end Sys2Proof.Machine
end

section
/-! PROOFS. The output formulas on exact rationals (spec/44_hardware_events.md R120, R121). -/

namespace Sys2Proof.Machine

open Safety

theorem outputFrequency_eq_some {S : ℚ} {s : State} (hS : 0 < S) (hclock : s.clock ≠ 0) (hperiod : s.period ≠ 0) :
    outputFrequency S s = some (S / (2 * (s.clock.toNat : ℚ) * (s.period.toNat : ℚ))) :=
  if_neg (not_or.mpr ⟨hS.le.not_gt, not_or.mpr ⟨hclock, hperiod⟩⟩)

theorem cycleTime_eq_some {S : ℚ} {s : State} (hS : 0 < S) (hclock : s.clock ≠ 0) (hperiod : s.period ≠ 0) :
    cycleTime S s = some (2 * (s.clock.toNat : ℚ) * (s.period.toNat : ℚ) / S) :=
  if_neg (not_or.mpr ⟨hS.not_ge, not_or.mpr ⟨hclock, hperiod⟩⟩)

theorem onTime_eq_some {S : ℚ} {s : State} (hS : 0 < S) (hclock : s.clock ≠ 0) (hperiod : s.period ≠ 0)
    (hduty : s.duty.toNat ≤ s.period.toNat) :
    onTime S s = some ((s.duty.toNat : ℚ) * 2 * (s.clock.toNat : ℚ) / S) :=
  if_neg (not_or.mpr ⟨hS.not_ge, not_or.mpr ⟨hclock, not_or.mpr ⟨hperiod, hduty.not_gt⟩⟩⟩)

theorem dutyCycle_eq_some {s : State} (hperiod : s.period ≠ 0) (hduty : s.duty.toNat ≤ s.period.toNat) :
    dutyCycle s = some ((s.duty.toNat : ℚ) / (s.period.toNat : ℚ)) :=
  if_neg (not_or.mpr ⟨hperiod, hduty.not_gt⟩)

theorem toNat_cast_pos {v : U16} (h : v ≠ 0) : (0 : ℚ) < v.toNat :=
  Nat.cast_pos.mpr (Nat.pos_of_ne_zero fun hv => h (BitVec.eq_of_toNat_eq hv))

/-- Settles O56: where a formula has no value its guard says so, and elsewhere the formulas are the field's
arithmetic. -/
theorem outputFormulasAgree : Obligations.OutputFormulasAgree := by
  intro S s hS
  refine ⟨fun hzero => ⟨if_pos (.inr hzero), if_pos (.inr hzero), if_pos ?_⟩, fun h => if_pos h,
    fun h => if_pos (.inr (.inr (.inr h))), fun hclock hperiod => ?_⟩
  · exact .inr (hzero.imp_right .inl)
  have hc := toNat_cast_pos hclock
  have hp := toNat_cast_pos hperiod
  refine ⟨_, _, outputFrequency_eq_some hS hclock hperiod, cycleTime_eq_some hS hclock hperiod, by positivity,
    (one_div_div _ _).symm, rfl, fun hduty => ⟨_, _, onTime_eq_some hS hclock hperiod hduty,
      dutyCycle_eq_some hperiod hduty, rfl, rfl, ?_, ?_⟩⟩
  · field_simp
  · exact div_le_one_of_le₀ (Nat.cast_le.mpr hduty) hp.le

end Sys2Proof.Machine
end

section
/-! PROOFS. What weak fairness of the cycle completion gives: a once-mode channel stops
(spec/44_hardware_events.md R116, R117). -/

namespace Sys2Proof.Machine

open Safety

/-! ## Once mode stays once mode -/

/-- A write that sets CONTINUOUS_ONCE only where its operation read it as 1. -/
def Write.KeepsOnceMode : Write → Prop
  | .wide _ => True
  | .control _ => False
  | .modify f => ∀ c, flag .continuousOnce c = false → flag .continuousOnce (f c) = false

theorem keepsOnceMode_setBitWord {b : BitIndex} (hb : b ≠ .continuousOnce) :
    (Write.modify (setBitWord b)).KeepsOnceMode := by
  intro c hc
  have hindex : BitIndex.continuousOnce.toNat ≠ b.toNat := by
    cases b
    case continuousOnce => exact absurd rfl hb
    all_goals decide
  rw [flag, getLsbD_setBitWord b c (by decide), decide_eq_false hindex, Bool.or_false]
  exact hc

theorem keepsOnceMode_clearBitWord (b : BitIndex) : (Write.modify (clearBitWord b)).KeepsOnceMode := by
  intro c hc
  have hlow : c.getLsbD BitIndex.continuousOnce.toNat = false := hc
  rw [flag, getLsbD_clearBitWord b c (by decide), hlow, Bool.false_and]

/-- The operations of `keepsOnceMode` write such words only (R82, R83, R102). -/
theorem writes_keepOnceMode {i : Instr} (h : keepsOnceMode i = true) : ∀ w ∈ writes i, w.KeepsOnceMode := by
  have hset := @keepsOnceMode_setBitWord
  have hclear := keepsOnceMode_clearBitWord
  cases i
  case write8Control v | writeControl v => cases h
  case setBit b => simpa [writes] using hset (b := b) (by simpa [keepsOnceMode] using h)
  case clearBit b => simpa [writes] using hclear b
  case start continuous =>
    obtain rfl : continuous = false := by simpa [keepsOnceMode] using h
    simpa [writes] using ⟨hset (b := .outputEnable) (by decide), hset (b := .pwmEnable) (by decide),
      hclear .continuousOnce, hset (b := .pwmStart) (by decide)⟩
  case stop => simpa [writes] using ⟨hclear .outputEnable, hclear .pwmStart⟩
  case resetCounter => simpa [writes] using ⟨hset (b := .resetCounter) (by decide), hclear .resetCounter⟩
  case selectClockSource external =>
    cases external with
    | true => simpa [writes] using hset (b := .clockSelect) (by decide)
    | false => simpa [writes] using hclear .clockSelect
  all_goals simp [writes, Write.KeepsOnceMode]

/-- An entry after which a channel in once mode is in once mode. -/
def KeepsOnceMode (e : Entry) : Prop :=
  ∀ c, flag .continuousOnce c = false → flag .continuousOnce (controlAfter c e) = false

theorem keepsOnceMode_write8 {v : U8} (hv : flag .continuousOnce v = false) (who : Issuer) (offset : Nat) :
    KeepsOnceMode (.write8 who offset v) :=
  fun c _ => (controlWrite_stored c v (by decide)).trans hv

theorem keepsOnceMode_event (e : HwEvent) : KeepsOnceMode (.event e) :=
  fun c hc => ((eventEffect_hardwareOnly c e).getLsbD_eq (k := 3) (by decide)).trans hc

/-- Such an operation leaves once mode, and does so at every point inside it. -/
theorem exec_keeps_once_mode {i : Instr} {s t : State} (hi : keepsOnceMode i = true)
    (hexclusive : s.cfg.exclusiveMutators = true) (hmode : flag .continuousOnce s.control = false)
    (h : exec i s = .next t) :
    flag .continuousOnce t.control = false ∧ ∀ e ∈ t.trace, KeepsOnceMode e := by
  have hU : Undisturbed (fun r => flag .continuousOnce r.control = false) KeepsOnceMode :=
    ⟨fun r c hr hc => (hc.getLsbD_eq (k := 3) (by decide)).trans hr, fun _ _ _ _ hc => hc,
      fun _ _ _ _ hc => hc, keepsOnceMode_event⟩
  refine exec_guarded hU (fun w hw => ?_) hexclusive hmode h
  have hkeeps := writes_keepOnceMode hi w hw
  cases w with
  | wide q => exact fun r v hr => ⟨by cases q <;> exact hr, fun _ hc => hc⟩
  | control v => cases hkeeps
  | modify f =>
    intro r c hr _
    have hword := hkeeps _ hr
    exact ⟨(controlWrite_stored c (f r.control) (by decide)).trans hword, keepsOnceMode_write8 hword _ _⟩

/-! ## The points of a record -/

theorem mem_controlsDuring_self (c : U8) (d : List Entry) : c ∈ controlsDuring c d := by
  cases d <;> simp [controlsDuring]

/-- A completion in once mode clears PWM_START (R116). -/
theorem pwmStart_cycleComplete_of_once : ∀ c : U8, flag .continuousOnce c = false →
    flag .pwmStart (eventEffect c .cycleComplete) = false := by decide +kernel

/-- A completion in once mode is a point at which the channel is Stopped (R116). -/
theorem exists_stopped_of_completion {d : List Entry} (hkeeps : ∀ e ∈ d, KeepsOnceMode e)
    (hmem : .event .cycleComplete ∈ d) :
    ∀ {c : U8}, flag .continuousOnce c = false → ∃ c' ∈ controlsDuring c d, flag .pwmStart c' = false := by
  induction d with
  | nil => cases hmem
  | cons e d ih =>
    obtain ⟨he, hkeeps⟩ := List.forall_mem_cons.mp hkeeps
    intro c hc
    obtain rfl | hmem := List.mem_cons.mp hmem
    · exact ⟨_, List.mem_cons_of_mem _ (mem_controlsDuring_self _ d), pwmStart_cycleComplete_of_once c hc⟩
    · obtain ⟨c', hc', hstop⟩ := ih hkeeps hmem (he c hc)
      exact ⟨c', List.mem_cons_of_mem _ hc', hstop⟩

/-- Once mode through one operation of a run. -/
theorem run_step_keeps_once_mode {st : ℕ → State} {op : ℕ → Instr} (hrun : IsRun st op) {n : ℕ}
    (hi : keepsOnceMode (op n) = true) (hexclusive : (st n).cfg.exclusiveMutators = true)
    (hmode : flag .continuousOnce (st n).control = false) :
    (st (n + 1)).cfg.exclusiveMutators = true ∧ flag .continuousOnce (st (n + 1)).control = false ∧
      ∀ e ∈ (st (n + 1)).trace, KeepsOnceMode e := by
  obtain ⟨gaps, busFaults, h⟩ := hrun n
  have hcfg : (st (n + 1)).cfg = (st n).cfg := (exec_leaves h).cfg
  exact ⟨by rwa [hcfg], exec_keeps_once_mode hi (by exact hexclusive) (by exact hmode) h⟩

/-- Once mode along a run. -/
theorem run_keeps_once_mode {st : ℕ → State} {op : ℕ → Instr} (hrun : IsRun st op)
    (hexclusive : (st 0).cfg.exclusiveMutators = true) (hmode : flag .continuousOnce (st 0).control = false)
    (hops : ∀ n, keepsOnceMode (op n) = true) (n : ℕ) :
    (st n).cfg.exclusiveMutators = true ∧ flag .continuousOnce (st n).control = false := by
  induction n with
  | zero => exact ⟨hexclusive, hmode⟩
  | succ n ih =>
    obtain ⟨hnow, hlow⟩ := ih
    obtain ⟨hexclusive, hmode, -⟩ := run_step_keeps_once_mode hrun (hops n) hnow hlow
    exact ⟨hexclusive, hmode⟩

/-- By contradiction: a channel that is never Stopped from an operation on keeps the event enabled, and the
completion that fairness gives stops it. -/
theorem stops_of_clockTicks {st : ℕ → State} {op : ℕ → Instr} (hrun : IsRun st op) (hticks : ClockTicks st)
    (hexclusive : (st 0).cfg.exclusiveMutators = true) (hmode : flag .continuousOnce (st 0).control = false)
    (hops : ∀ n, keepsOnceMode (op n) = true) (n : ℕ) :
    ∃ m, n ≤ m ∧ ∃ c ∈ controlsOf st m, channelState c = .stopped := by
  by_contra hnever
  have hstarted : ∀ m, n ≤ m → ∀ c ∈ controlsOf st m, flag .pwmStart c = true := by
    intro m hm c hc
    by_contra hstop
    exact hnever ⟨m, hm, c, hc, channelState_of_not_started (Bool.eq_false_iff.mpr hstop)⟩
  obtain ⟨m, hm, hmem⟩ := hticks n hstarted
  obtain ⟨hnow, hlow⟩ := run_keeps_once_mode hrun hexclusive hmode hops m
  obtain ⟨-, -, hkeeps⟩ := run_step_keeps_once_mode hrun (hops m) hnow hlow
  obtain ⟨c, hc, hstop⟩ := exists_stopped_of_completion hkeeps hmem hlow
  exact absurd (hstarted m hm c hc) (by simp [hstop])

/-! ## A channel that software only polls -/

/-- What one poll or event leaves: no point between CONTROL before and after it. -/
structure PollStep (s t : State) : Prop where
  points : ∀ c ∈ controlsDuring s.control t.trace, c = s.control ∨ c = t.control
  control : t.control = s.control ∨ ∃ e, t.control = eventEffect s.control e
  completion : .event .cycleComplete ∈ t.trace → t.control = eventEffect s.control .cycleComplete

/-- `op` makes one read and changes nothing of CONTROL. -/
def ReadsOnce {α : Type} (op : State → Bus α) : Prop :=
  ∀ ⦃s t : State⦄ ⦃a : α⦄, op s = .ok (a, t) → t.control = s.control ∧
    ∃ e, t.trace = s.trace ++ [e] ∧ (∀ c, controlAfter c e = c) ∧ e ≠ .event .cycleComplete

theorem readsOnce_read16 (r : WideReg) : ReadsOnce (read16 (wideOffset r)) := by
  intro s t v h
  obtain ⟨-, bf, rfl⟩ := read16_cases h
  exact ⟨rfl, _, rfl, fun _ => rfl, by simp⟩

theorem readsOnce_read8 : ReadsOnce (read8 controlOffset) := by
  intro s t v h
  obtain ⟨-, bf, rfl⟩ := read8_cases h
  exact ⟨rfl, _, rfl, fun _ => rfl, by simp⟩

theorem ReadsOnce.answering {α β : Type} {op : State → Bus α} (hop : ReadsOnce op) (wrap : α → β) :
    ReadsOnce fun s => andThen (op s) fun a s => .ok (wrap a, s) := by
  intro s t b h
  obtain ⟨a, u, hu, hrest⟩ := andThen_cases h
  cases hrest
  exact hop hu

theorem ReadsOnce.pollStep {op : State → Bus Result} (hop : ReadsOnce op) {s t : State}
    (h : perform op s = .next t) : PollStep s t := by
  obtain ⟨r, u, hu, rfl⟩ := perform_cases h
  obtain ⟨hcontrol, e, htrace, hafter, hne⟩ := hop hu
  have hcontrol : u.control = s.control := hcontrol
  have htrace : u.trace = [e] := htrace
  refine ⟨?_, .inl hcontrol, ?_⟩
  · intro c hc
    exact .inl (by simpa [htrace, controlsDuring, hafter] using hc)
  · intro hmem
    exact absurd (by simpa [htrace] using hmem) hne.symm

theorem pollStep_event {e : HwEvent} {s t : State} (h : exec (eventInstr e) s = .next t) :
    PollStep s t := by
  rw [exec_eventInstr] at h
  cases h
  obtain ⟨-, heq⟩ | ⟨-, heq⟩ := hwEvent_cases e { s with trace := [] }
  · rw [heq]
    exact ⟨by simp [controlsDuring], .inl rfl, by simp⟩
  · rw [heq]
    refine ⟨?_, .inr ⟨e, rfl⟩, ?_⟩
    · simp [controlsDuring, controlAfter]
    · intro hmem
      obtain rfl : HwEvent.cycleComplete = e := by simpa using hmem
      rfl

/-- Every poll is one read, and every event at most one entry (R73 to R79, R84, R109, R115). -/
theorem exec_pollStep {i : Instr} {s t : State} (hpoll : pollOrEvent i = true) (h : exec i s = .next t) :
    PollStep s t := by
  cases i
  case read16Period | readPeriod => exact ((readsOnce_read16 .period).answering _).pollStep h
  case read16Duty | readDuty => exact ((readsOnce_read16 .duty).answering _).pollStep h
  case read16Clock | readClock => exact ((readsOnce_read16 .clock).answering _).pollStep h
  case read8Control | readControl => exact (readsOnce_read8.answering _).pollStep h
  case testBit b => exact ((readsOnce_read8.answering (flag b)).answering _).pollStep h
  case interruptOccurred => exact ((readsOnce_read8.answering (flag .interrupt)).answering _).pollStep h
  case hwCycleComplete => exact pollStep_event (e := .cycleComplete) h
  case hwResetAutoClear => exact pollStep_event (e := .resetAutoClear) h
  all_goals cases hpoll

/-- A completion ends a once-mode run with INTERRUPT raised, and an auto-clear does not touch it (R116, R118). -/
theorem eventEffect_runningOnce_facts : ∀ c : U8, channelState c = .running .once →
    (channelState (eventEffect c .cycleComplete) = .stopped ∧
      flag .interrupt (eventEffect c .cycleComplete) = true) ∧
    channelState (eventEffect c .resetAutoClear) = .running .once := by decide +kernel

theorem PollStep.running_or_stopped {s t : State} (h : PollStep s t)
    (honce : channelState s.control = .running .once) :
    channelState t.control = .running .once ∨
      (channelState t.control = .stopped ∧ flag .interrupt t.control = true) := by
  obtain ⟨hcomplete, hclear⟩ := eventEffect_runningOnce_facts _ honce
  obtain heq | ⟨e, heq⟩ := h.control
  · exact .inl (heq ▸ honce)
  · rw [heq]
    cases e with
    | cycleComplete => exact .inr hcomplete
    | resetAutoClear => exact .inl hclear

/-- By contradiction: a channel that polls never see Stopped runs on, and the completion that fairness gives
stops it. -/
theorem polls_see_stopped {st : ℕ → State} {op : ℕ → Instr} (hrun : IsRun st op) (hticks : ClockTicks st)
    (hpolls : ∀ n, pollOrEvent (op n) = true) (honce : channelState (st 0).control = .running .once) :
    ∃ n, channelState (st n).control = .stopped ∧ flag .interrupt (st n).control = true := by
  by_contra hnever
  have hstep : ∀ n, PollStep (st n) (st (n + 1)) := fun n => by
    obtain ⟨gaps, busFaults, h⟩ := hrun n
    obtain ⟨hpoints, hcontrol, hcompletion⟩ := exec_pollStep (hpolls n) h
    exact ⟨hpoints, hcontrol, hcompletion⟩
  have hruns : ∀ n, channelState (st n).control = .running .once := fun n => by
    induction n with
    | zero => exact honce
    | succ n ih => exact ((hstep n).running_or_stopped ih).resolve_right fun hdone => hnever ⟨n + 1, hdone⟩
  have hstarted : ∀ n, flag .pwmStart (st n).control = true := fun n => by
    by_contra hstop
    have hstopped := channelState_of_not_started (Bool.eq_false_iff.mpr hstop)
    cases (hruns n).symm.trans hstopped
  obtain ⟨m, -, hmem⟩ := hticks 0 fun m _ c hc => by
    obtain rfl | rfl := (hstep m).points c hc
    · exact hstarted m
    · exact hstarted (m + 1)
  obtain ⟨hcomplete, -⟩ := eventEffect_runningOnce_facts _ (hruns m)
  exact hnever ⟨m + 1, by rwa [(hstep m).completion hmem]⟩

/-- Settles O53: each part by contradiction with the fairness premise. -/
theorem polledOnceModeChannelEventuallyStops : Obligations.PolledOnceModeChannelEventuallyStops :=
  ⟨fun _ _ => stops_of_clockTicks, fun _ _ => polls_see_stopped⟩

end Sys2Proof.Machine
end
